-- ==== Sys2Proof/Word.lean ====
section
/-! DEFINITION. The word type of the machine, the byte of its character streams, and the names of its eight general
registers (00_scope.md R6, R8; 10_state.md R20). -/

namespace Sys2Proof

/-- R6: "A Word is an unsigned 16-bit integer; all arithmetic is modulo 2^16". Registers, cells, addresses and
instructions are Words. -/
abbrev Word := BitVec 16

/-- A character code or an output byte: 0 to 255 (10_state.md R33, R36; CHAR_BITS = 8, D13, log 12). -/
abbrev Byte := BitVec 8

/-- The eight general registers R0 to R7 (R20). -/
inductive Reg where
  | r0 | r1 | r2 | r3 | r4 | r5 | r6 | r7
  deriving DecidableEq, Repr

/-- The 3-bit index of a register (30_encoding.md R82: "unsigned, value 0 to 7 naming R0 to R7"). -/
def Reg.bits : Reg → BitVec 3
  | .r0 => 0b000#3
  | .r1 => 0b001#3
  | .r2 => 0b010#3
  | .r3 => 0b011#3
  | .r4 => 0b100#3
  | .r5 => 0b101#3
  | .r6 => 0b110#3
  | .r7 => 0b111#3

end Sys2Proof
end

