-- ==== Sys2Proof/Config.lean ====
section
/-! DEFINITION. What an implementation fixes: the TYPES of the configuration parameters of 00_scope.md section 4, the
constants the source itself fixes, and the FREE VALUES (opaque, no body) for what the spec leaves OPEN. The decided
defaults of the parameters stand in Machine/Parameters.lean. -/

namespace Sys2Proof

/-- The sixteen values of the 4-bit opcode field: fourteen operations and two reserved ones (30_encoding.md R86). -/
inductive Opcode where
  | br | add | ld | st | jsr | and | ldr | str | reserved8 | not | ldi | sti | jmp | reserved13 | lea | trap
  deriving DecidableEq, Repr

/-- The six trap routines (45_trap.md R181). -/
inductive TrapRoutine where
  | getc | out | puts | inp | putsp | halt
  deriving DecidableEq, Repr

/-- The two readings of the status cell's update when input is available: KBSR_READY_WRITE (20_memory.md R51, D10). -/
inductive KbsrReadyWrite where
  | orBit15
  | assign8000
  deriving DecidableEq, Repr

/-- COND: "one of POSITIVE, ZERO, NEGATIVE, exactly one active at any time" (10_state.md R26). That exactly one is
active holds by the type. -/
inductive Cond where
  | negative | zero | positive
  deriving DecidableEq, Repr

/-- MEM_WORDS, fixed by the source: addresses 0x0000 to 0xFFFF (10_state.md R29). -/
def Config.memWords : Nat := 65536

/-- OPEN, INPUT_EOF (10_state.md R35, D13, U6): the Word a blocking read puts in R0 once the input has ended. A free
value: nothing constrains it. UNVERIFIED, log 13. -/
opaque Config.inputEof : Word

/-- OPEN: the byte that IN echoes when the input has ended (R186 echoes "the character read"; at the end of input there
is none). A free value. UNVERIFIED, log 13. -/
opaque Config.inputEofEcho : Byte

/-- OPEN (10_state.md R34, D22): the environment's answer to the n-th poll past the answers the state lists. A free
value. UNVERIFIED, log 22. -/
opaque Config.pollAnswer : Nat → Bool

/-- OPEN: EXIT_FATAL less one, a free value (D17). UNVERIFIED, log 17. -/
opaque Config.exitFatalPred : Nat

/-- OPEN, EXIT_FATAL: "some non-zero value" (00_scope.md section 4, D17); non-zero is all that can be proved of it. -/
def Config.exitFatal : Nat := Config.exitFatalPred + 1

/-- OPEN: a load failure's exit status less one, a free value of its own: 70_reset_and_hazards.md R252 says only "a non-zero
exit status". UNVERIFIED, log 36. -/
opaque Config.exitLoadFailurePred : Nat

/-- OPEN, the exit status of a load failure: non-zero is all that can be proved of it (R252, log 36). -/
def Config.exitLoadFailure : Nat := Config.exitLoadFailurePred + 1

/-- EXIT_HALT: "the HALT trap causes a graceful loop exit with status 0" (41_dispatcher.md R125, R126). -/
def Config.exitHalt : Nat := 0

end Sys2Proof
end

