-- ==== Sys2Proof/Machine/Parameters.lean ====
section
/-! DEFINITION. The configuration parameters of 00_scope.md section 4 at the defaults the spec decides, each with the
decision D<n> of 92_eei_decisions.md and the log entry that carries it. They stand under Machine/ so that a later repair
can mend a value. -/

namespace Sys2Proof

/-- OPCODE_MAP (30_encoding.md R86; ADD, TRAP and reserved 8 from the source, the others PRESUMED, D1, log 1). -/
def Config.opcodeBits : Opcode → BitVec 4
  | .br         => 0b0000#4
  | .add        => 0b0001#4
  | .ld         => 0b0010#4
  | .st         => 0b0011#4
  | .jsr        => 0b0100#4
  | .and        => 0b0101#4
  | .ldr        => 0b0110#4
  | .str        => 0b0111#4
  | .reserved8  => 0b1000#4
  | .not        => 0b1001#4
  | .ldi        => 0b1010#4
  | .sti        => 0b1011#4
  | .jmp        => 0b1100#4
  | .reserved13 => 0b1101#4
  | .lea        => 0b1110#4
  | .trap       => 0b1111#4

/-- OPCODE_MAP read from bits to operation: R86's table row by row, opcode 0 first. -/
def Config.opcodeTable : List Opcode :=
  [.br, .add, .ld, .st, .jsr, .and, .ldr, .str, .reserved8, .not, .ldi, .sti, .jmp, .reserved13, .lea, .trap]

/-- The operation an opcode value selects (R85, R86). Every value has its own row, so the default is never reached. -/
def Config.opcodeOf (b : BitVec 4) : Opcode := Config.opcodeTable.getD b.toNat .reserved13

/-- TRAP_VECTORS (45_trap.md R181; HALT from the source, the others PRESUMED, D2, log 2). -/
def Config.trapVector : TrapRoutine → BitVec 8
  | .getc  => 0x20#8
  | .out   => 0x21#8
  | .puts  => 0x22#8
  | .inp   => 0x23#8
  | .putsp => 0x24#8
  | .halt  => 0x25#8

/-- The routine a trap vector names, or none: R180's case. -/
def Config.trapRoutineOf (v : BitVec 8) : Option TrapRoutine :=
  if v = Config.trapVector .getc then some .getc
  else if v = Config.trapVector .out then some .out
  else if v = Config.trapVector .puts then some .puts
  else if v = Config.trapVector .inp then some .inp
  else if v = Config.trapVector .putsp then some .putsp
  else if v = Config.trapVector .halt then some .halt
  else none

/-- The COND encoding, one-hot: COND[2] = N, COND[1] = Z, COND[0] = P (10_state.md R26, D8, log 8). -/
def Cond.bits : Cond → BitVec 3
  | .negative => 0b100#3
  | .zero     => 0b010#3
  | .positive => 0b001#3

/-- KBSR_ADDR, the status address (10_state.md R30; PRESUMED, D3, log 3). -/
def Config.kbsrAddr : Word := 0xFE00#16

/-- KBDR_ADDR, the data address (10_state.md R30; PRESUMED, D3, log 3). -/
def Config.kbdrAddr : Word := 0xFE02#16

/-- PC_START (70_reset_and_hazards.md R241, D4, log 4). -/
def Config.pcStart : Word := 0x3000#16

/-- GPR_RESET (10_state.md R40, D5, log 5). -/
def Config.gprReset : Word := 0x0000#16

/-- COND_RESET (10_state.md R40, D6, log 6). -/
def Config.condReset : Cond := .zero

/-- MEM_INIT: what a cell holds before the image is loaded, hence what an unlisted address reads as (10_state.md R40,
D7, log 7). -/
def Config.memInit : Word := 0x0000#16

/-- KBSR_READY_WRITE (20_memory.md R51, D10, log 9). -/
def Config.kbsrReadyWrite : KbsrReadyWrite := .orBit15

/-- TRAP_SAVES_R7 (45_trap.md R182, D11, log 10). -/
def Config.trapSavesR7 : Bool := false

/-- TRAP_INPUT_UPDATES_FLAGS (45_trap.md R182, D12, log 11). -/
def Config.trapInputUpdatesFlags : Bool := true

/-- IN_PROMPT, the bytes of "Enter a character: " (45_trap.md R186; PRESUMED, D14, log 14). -/
def Config.inPrompt : List Byte :=
  [0x45, 0x6E, 0x74, 0x65, 0x72, 0x20, 0x61, 0x20, 0x63, 0x68, 0x61, 0x72, 0x61, 0x63, 0x74, 0x65, 0x72, 0x3A, 0x20]

/-- HALT_NOTICE, the bytes of "HALT" and a line feed (45_trap.md R188; PRESUMED, D15, log 15). -/
def Config.haltNotice : List Byte := [0x48, 0x41, 0x4C, 0x54, 0x0A]

/-- LOADER_CAP_AT_ORIGIN0, in Words (70_reset_and_hazards.md R249, D18, log 18). -/
def Config.loaderCapAtOrigin0 : Nat := 0

end Sys2Proof
end

