-- ==== Sys2Proof/Syntax.lean ====
section
/-! DEFINITION. The instructions: one constructor per row of spec/opcode_table.json, in the table's order. Ignored bits
("x" in 30_encoding.md R81) are no part of an instruction (R84). -/

namespace Sys2Proof

/-- One decoded instruction. Register fields are named registers (R82), immediates are the bits of their field (R83). -/
inductive Instr where
  /-- BR, 43_control.md R150. -/
  | br (n z p : Bool) (pcOffset9 : BitVec 9)
  /-- ADD, register form, 42_operate.md R141. -/
  | addReg (dr sr1 sr2 : Reg)
  /-- ADD, immediate form, R142. -/
  | addImm (dr sr1 : Reg) (imm5 : BitVec 5)
  /-- LD, 44_load_store.md R160. -/
  | ld (dr : Reg) (pcOffset9 : BitVec 9)
  /-- ST, R164. -/
  | st (sr : Reg) (pcOffset9 : BitVec 9)
  /-- JSR, 43_control.md R152. -/
  | jsr (pcOffset11 : BitVec 11)
  /-- JSRR, R153. -/
  | jsrr (baseR : Reg)
  /-- AND, register form, 42_operate.md R143. -/
  | andReg (dr sr1 sr2 : Reg)
  /-- AND, immediate form, R144. -/
  | andImm (dr sr1 : Reg) (imm5 : BitVec 5)
  /-- LDR, 44_load_store.md R162. -/
  | ldr (dr baseR : Reg) (offset6 : BitVec 6)
  /-- STR, R166. -/
  | str (sr baseR : Reg) (offset6 : BitVec 6)
  /-- Reserved opcode 8, 41_dispatcher.md R124. -/
  | reserved8
  /-- NOT, 42_operate.md R145. -/
  | notReg (dr sr : Reg)
  /-- LDI, 44_load_store.md R161. -/
  | ldi (dr : Reg) (pcOffset9 : BitVec 9)
  /-- STI, R165. -/
  | sti (sr : Reg) (pcOffset9 : BitVec 9)
  /-- JMP, 43_control.md R151. -/
  | jmp (baseR : Reg)
  /-- Reserved opcode 13, 41_dispatcher.md R124. -/
  | reserved13
  /-- LEA, 44_load_store.md R163. -/
  | lea (dr : Reg) (pcOffset9 : BitVec 9)
  /-- TRAP GETC, 45_trap.md R183. -/
  | trapGetc
  /-- TRAP OUT, R184. -/
  | trapOut
  /-- TRAP PUTS, R185. -/
  | trapPuts
  /-- TRAP IN, R186. -/
  | trapIn
  /-- TRAP PUTSP, R187. -/
  | trapPutsp
  /-- TRAP HALT, R188. -/
  | trapHalt
  /-- TRAP with a vector that names no routine, R189. -/
  | trapUnknown (trapvect8 : BitVec 8)
  deriving DecidableEq, Repr

end Sys2Proof
end

