-- ==== Sys2Proof/WellFormed.lean ====
section
/-! DEFINITION. Which terms of Instr an instruction word can stand for. Register and immediate fields are in range by
their types, and illegal field combinations do not exist (30_encoding.md R84), so one check is left. -/

namespace Sys2Proof

/-- A TRAP with an unknown vector carries none of the six defined vectors (45_trap.md R189; 30_encoding.md R88). -/
def Instr.wellFormed : Instr → Bool
  | .trapUnknown v => (Config.trapRoutineOf v).isNone
  | .br _ _ _ _ => true
  | .addReg _ _ _ => true
  | .addImm _ _ _ => true
  | .ld _ _ => true
  | .st _ _ => true
  | .jsr _ => true
  | .jsrr _ => true
  | .andReg _ _ _ => true
  | .andImm _ _ _ => true
  | .ldr _ _ _ => true
  | .str _ _ _ => true
  | .reserved8 => true
  | .notReg _ _ => true
  | .ldi _ _ => true
  | .sti _ _ => true
  | .jmp _ => true
  | .reserved13 => true
  | .lea _ _ => true
  | .trapGetc => true
  | .trapOut => true
  | .trapPuts => true
  | .trapIn => true
  | .trapPutsp => true
  | .trapHalt => true

end Sys2Proof
end

