-- ==== Sys2Proof/Decode.lean ====
section
/-! DEFINITION. The decoder, total on Words (30_encoding.md R85), and after it the encoder, both from the format table
R81, the field rules R82 and R83 and the opcode map R86. -/

namespace Sys2Proof

/-! ## Fields of an instruction word -/

/-- The `width` bits of `ir` from bit `lo` upwards: ir[lo+width-1:lo] (00_scope.md section 5). -/
def field (lo width : Nat) (ir : Word) : BitVec width := ir.extractLsb' lo width

/-- ir[i]. -/
def bitAt (i : Nat) (ir : Word) : Bool := ir.getLsbD i

/-- The register a 3-bit index names (R82). -/
def Reg.ofBits (b : BitVec 3) : Reg :=
  match b.getLsbD 2, b.getLsbD 1, b.getLsbD 0 with
  | false, false, false => .r0
  | false, false, true  => .r1
  | false, true,  false => .r2
  | false, true,  true  => .r3
  | true,  false, false => .r4
  | true,  false, true  => .r5
  | true,  true,  false => .r6
  | true,  true,  true  => .r7

/-- The register named by ir[lo+2:lo]. -/
def regAt (lo : Nat) (ir : Word) : Reg := Reg.ofBits (field lo 3 ir)

/-! ## Decoding -/

/-- TRAP refined by its vector (45_trap.md R180). -/
def decodeTrap (v : BitVec 8) : Instr :=
  match Config.trapRoutineOf v with
  | some .getc  => .trapGetc
  | some .out   => .trapOut
  | some .puts  => .trapPuts
  | some .inp   => .trapIn
  | some .putsp => .trapPutsp
  | some .halt  => .trapHalt
  | none        => .trapUnknown v

/-- R85: "Decoding is a function of ir[15:12] alone, refined by ir[5] for ADD and AND, by ir[11] for JSR/JSRR, and by
ir[7:0] for TRAP. It is total". -/
def decode (ir : Word) : Instr :=
  match Config.opcodeOf (field 12 4 ir) with
  | .br => .br (bitAt 11 ir) (bitAt 10 ir) (bitAt 9 ir) (field 0 9 ir)
  | .add =>
    if bitAt 5 ir then .addImm (regAt 9 ir) (regAt 6 ir) (field 0 5 ir)
    else .addReg (regAt 9 ir) (regAt 6 ir) (regAt 0 ir)
  | .ld => .ld (regAt 9 ir) (field 0 9 ir)
  | .st => .st (regAt 9 ir) (field 0 9 ir)
  | .jsr => if bitAt 11 ir then .jsr (field 0 11 ir) else .jsrr (regAt 6 ir)
  | .and =>
    if bitAt 5 ir then .andImm (regAt 9 ir) (regAt 6 ir) (field 0 5 ir)
    else .andReg (regAt 9 ir) (regAt 6 ir) (regAt 0 ir)
  | .ldr => .ldr (regAt 9 ir) (regAt 6 ir) (field 0 6 ir)
  | .str => .str (regAt 9 ir) (regAt 6 ir) (field 0 6 ir)
  | .reserved8 => .reserved8
  | .not => .notReg (regAt 9 ir) (regAt 6 ir)
  | .ldi => .ldi (regAt 9 ir) (field 0 9 ir)
  | .sti => .sti (regAt 9 ir) (field 0 9 ir)
  | .jmp => .jmp (regAt 6 ir)
  | .reserved13 => .reserved13
  | .lea => .lea (regAt 9 ir) (field 0 9 ir)
  | .trap => decodeTrap (field 0 8 ir)

/-- Why a byte stream holds no instruction. -/
inductive DecodeError where
  /-- Fewer than the two bytes of a Word are left (R80: every instruction is exactly one Word). -/
  | truncatedWord
  deriving DecidableEq, Repr

/-- The Word of a pair of image bytes, the first the high byte (20_memory.md R56: b0 * 256 + b1). -/
def wordOfBytes (b0 b1 : Byte) : Word := b0 ++ b1

/-- The first instruction of a byte stream in the image's big-endian order (R56), and the bytes after it. -/
def decodeBytes : List Byte → Except DecodeError (Instr × List Byte)
  | b0 :: b1 :: rest => .ok (decode (wordOfBytes b0 b1), rest)
  | _ => .error .truncatedWord

/-- The host's question: the instruction whose bits are w. Every row of the table has 16 bits; a shorter nbits leaves the
bits above it zero. A number that does not fit an instruction word is none. -/
def decodeTableWord (nbits w : Nat) : Option Instr :=
  if nbits ≤ 16 ∧ w < 2 ^ nbits then
    match decodeBytes [BitVec.ofNat 8 (w / 256), BitVec.ofNat 8 w] with
    | .ok (i, _) => some i
    | .error _ => none
  else none

/-! ## Encoding -/

/-- An opcode value and the twelve operand bits below it (R80). -/
def opWord (o : Opcode) (operands : BitVec 12) : Word := Config.opcodeBits o ++ operands

/-- A register in bits 11 to 9 over the nine bits below it (R82). -/
def regOver (r : Reg) (low : BitVec 9) : BitVec 12 := r.bits ++ low

/-- A register in bits 8 to 6 over the six bits below it (R82). -/
def regMid (r : Reg) (low : BitVec 6) : BitVec 9 := r.bits ++ low

/-- The low six bits of ADD and AND, register form: mode bit 0, two ignored bits, SR2 (R81, OP-REG). -/
def regMode (sr2 : Reg) : BitVec 6 := 0b000#3 ++ sr2.bits

/-- The low six bits of ADD and AND, immediate form: mode bit 1, imm5 (R81, OP-IMM). -/
def immMode (imm : BitVec 5) : BitVec 6 := 1#1 ++ imm

/-- The n, z, p bits of a BR as ir[11:9] (R83; the order n, z, p is D9, log 8). -/
def nzpBits (n z p : Bool) : BitVec 3 := BitVec.ofBool n ++ BitVec.ofBool z ++ BitVec.ofBool p

/-- BR's condition bits over its offset (R81, BR). -/
def nzpOver (n z p : Bool) (off : BitVec 9) : BitVec 12 := nzpBits n z p ++ off

/-- A TRAP's operand bits: four ignored bits over the vector (R81, TRAP). -/
def trapOver (v : BitVec 8) : BitVec 12 := 0x0#4 ++ v

/-- The word of an instruction (R81). The ignored bits take the customary assembler's values (R90, R91; log 27): ones in
NOT, zero elsewhere. -/
def encode : Instr → Word
  | .br n z p off => opWord .br (nzpOver n z p off)
  | .addReg dr sr1 sr2 => opWord .add (regOver dr (regMid sr1 (regMode sr2)))
  | .addImm dr sr1 imm => opWord .add (regOver dr (regMid sr1 (immMode imm)))
  | .ld dr off => opWord .ld (regOver dr off)
  | .st sr off => opWord .st (regOver sr off)
  | .jsr off => opWord .jsr (1#1 ++ off)
  | .jsrr base => opWord .jsr (0b000#3 ++ regMid base 0b000000#6)
  | .andReg dr sr1 sr2 => opWord .and (regOver dr (regMid sr1 (regMode sr2)))
  | .andImm dr sr1 imm => opWord .and (regOver dr (regMid sr1 (immMode imm)))
  | .ldr dr base off => opWord .ldr (regOver dr (regMid base off))
  | .str sr base off => opWord .str (regOver sr (regMid base off))
  | .reserved8 => opWord .reserved8 0x000#12
  | .notReg dr sr => opWord .not (regOver dr (regMid sr 0b111111#6))
  | .ldi dr off => opWord .ldi (regOver dr off)
  | .sti sr off => opWord .sti (regOver sr off)
  | .jmp base => opWord .jmp (0b000#3 ++ regMid base 0b000000#6)
  | .reserved13 => opWord .reserved13 0x000#12
  | .lea dr off => opWord .lea (regOver dr off)
  | .trapGetc => opWord .trap (trapOver (Config.trapVector .getc))
  | .trapOut => opWord .trap (trapOver (Config.trapVector .out))
  | .trapPuts => opWord .trap (trapOver (Config.trapVector .puts))
  | .trapIn => opWord .trap (trapOver (Config.trapVector .inp))
  | .trapPutsp => opWord .trap (trapOver (Config.trapVector .putsp))
  | .trapHalt => opWord .trap (trapOver (Config.trapVector .halt))
  | .trapUnknown v => opWord .trap (trapOver v)

end Sys2Proof
end

