-- ==== Sys2Proof/Machine/State.lean ====
section
/-! DEFINITION. The machine's state as plain data (10_state.md, head of the file), the ways a step can stop, and the state
after reset (R40). -/

namespace Sys2Proof.Machine

/-- The register file: eight Words (R20). -/
structure RegFile where
  r0 : Word
  r1 : Word
  r2 : Word
  r3 : Word
  r4 : Word
  r5 : Word
  r6 : Word
  r7 : Word
  deriving DecidableEq, Repr

/-- One cell of memory: an address and the Word it holds. The addressable unit of this machine is the Word (R29;
20_memory.md R56; log 31). -/
abbrev Cell := Nat × Word

/-- Memory: the cells that hold something other than MEM_INIT, addresses strictly rising (R29; log 7, log 31). -/
structure Memory where
  cells : List Cell
  deriving DecidableEq, Repr

/-- The run status of an ended run (R32; 41_dispatcher.md R126). -/
inductive RunStatus where
  | halted
  | fatalReservedOpcode (op : BitVec 4)
  | fatalUnknownTrap (v : BitVec 8)
  deriving DecidableEq, Repr

/-- `running` and, when it is false, the run status (R32): one field, so that a status exists exactly when the run has
ended. -/
inductive RunState where
  | running
  | ended (status : RunStatus)
  deriving DecidableEq, Repr

/-- The input collaborator as the core sees it (R33 to R35): `input` is the spec's sequence of character codes. The other
three fields are the model's own and hold what the environment decides (log 13, log 22, log 30). -/
structure Keyboard where
  /-- R33: the character codes not yet taken, the next one first. -/
  input : List Byte
  /-- Whether the sequence is complete: a blocking read past it then returns INPUT_EOF; else it waits (R35). -/
  ended : Bool
  /-- The environment's answers to the next polls, the next one first (R34). -/
  answers : List Bool
  /-- How many polls were answered past `answers`, each by the free value Config.pollAnswer (R34). -/
  polls : Nat
  deriving DecidableEq, Repr

/-- The whole state: the spec's tuple of 10_state.md and its environment. -/
structure State where
  /-- R0 to R7 (R20). -/
  regs : RegFile
  /-- The program counter (R23). -/
  pc : Word
  /-- The condition register (R26). -/
  cond : Cond
  /-- The 65,536 cells, the two device cells among them (R29, R31). -/
  mem : Memory
  /-- `running` and the run status (R32). -/
  run : RunState
  /-- The input collaborator (R33 to R35). -/
  kbd : Keyboard
  /-- The output bytes so far, the first one first (R36). -/
  output : List Byte
  deriving DecidableEq, Repr

/-- Why a step has no next state. Each of these is a step the spec says does not take place; none is an exception of the
machine (the two fatal conditions of 60_exceptions.md R210 and R211 are taken: they give a next state). -/
inductive Fault where
  /-- Raised by step, by no instruction: "A state with `running = false` has no step" (R32). Safe. -/
  | notRunning
  /-- Raised by TRAP GETC and TRAP IN when no character is left and the input has not ended: the step "never completes"
  until the environment supplies one (R35, U5); "the step has not happened". Safe (log 24). -/
  | waitingForInput
  /-- Raised by TRAP PUTS and TRAP PUTSP when the string loop does not end (45_trap.md R185, R187, U15). With the finite
  input a state holds the loop always ends, so no state reaches this (log 32). Safe. -/
  | stringNeverEnds
  deriving DecidableEq, Repr

/-- Why the model gives an instruction no meaning. -/
inductive Refusal where
  /-- Raised by an arm of exec whose instruction has no meaning yet. Safe. No arm raises it. -/
  | notModelled (mnemonic : String)
  deriving DecidableEq, Repr

/-- Every register at GPR_RESET (R40). -/
def RegFile.reset : RegFile :=
  { r0 := Config.gprReset, r1 := Config.gprReset, r2 := Config.gprReset, r3 := Config.gprReset,
    r4 := Config.gprReset, r5 := Config.gprReset, r6 := Config.gprReset, r7 := Config.gprReset }

/-- The input collaborator before the environment has supplied anything: the empty input, complete, no answer listed.
R40: "the environment's; not reset by the core". DESIGN CHOICE, log 30. -/
def Keyboard.reset : Keyboard := { input := [], ended := true, answers := [], polls := 0 }

/-- The machine right after reset, before the image is loaded (R40). -/
def State.reset : State :=
  { regs := RegFile.reset
    pc := Config.pcStart
    cond := Config.condReset
    mem := { cells := [] }
    run := .running
    kbd := Keyboard.reset
    output := [] }

/-- What is observable of a run (00_scope.md R11): the output, the run status and, for a test, the register file, which is R0
to R7, PC and COND (R1), and memory. -/
structure Observation where
  output : List Byte
  run : RunState
  regs : RegFile
  pc : Word
  cond : Cond
  mem : Memory
  deriving DecidableEq, Repr

/-- What is observable of a state (R11). -/
def State.observe (s : State) : Observation :=
  { output := s.output, run := s.run, regs := s.regs, pc := s.pc, cond := s.cond, mem := s.mem }

end Sys2Proof.Machine
end

