-- ==== Sys2Proof/Machine/WordUtil.lean ====
section
/-! DEFINITION. The word utilities of 40_word_utilities.md: sign extension, zero extension, byte swap, and the bytes of a
Word. -/

namespace Sys2Proof

/-- zext_N: "the N-bit value v as a Word with bits 15 to N zero" (00_scope.md section 5). -/
def zext {n : Nat} (f : BitVec n) : Word := f.setWidth 16

/-- sext_N of an N-bit field (R110): if bit N-1 is 1, all bits above it become 1, else 0. -/
def sext {n : Nat} (f : BitVec n) : Word :=
  if f.msb then zext f ||| (0xFFFF#16 <<< n) else zext f

/-- The document's sign_extend(value, bit_count) on a whole Word (R110): the low bit_count bits, sign-extended; higher
bits of the value are ignored (D26, log 26). -/
def signExtend (value : Word) (bitCount : Nat) : Word := sext (value.setWidth bitCount)

/-- w[7:0]. -/
def lowByte (w : Word) : Byte := w.extractLsb' 0 8

/-- w[15:8]. -/
def highByte (w : Word) : Byte := w.extractLsb' 8 8

/-- bswap (R112): ((v << 8) & 0xFF00) | (v >> 8). -/
def bswap (v : Word) : Word := ((v <<< 8) &&& 0xFF00#16) ||| (v >>> 8)

end Sys2Proof
end

