-- ==== Sys2Proof/Machine/Ops.lean ====
section
/-! DEFINITION. The named operations over registers, memory, the input and output collaborators and the run state: the
pseudocode primitives of 00_scope.md section 5. -/

namespace Sys2Proof.Machine

/-! ## Replacing one field of the state -/

def State.setRegs (v : RegFile) (s : State) : State := { s with regs := v }
def State.setPc (v : Word) (s : State) : State := { s with pc := v }
def State.setCond (v : Cond) (s : State) : State := { s with cond := v }
def State.setMem (v : Memory) (s : State) : State := { s with mem := v }
def State.setRun (v : RunState) (s : State) : State := { s with run := v }
def State.setKbd (v : Keyboard) (s : State) : State := { s with kbd := v }
def State.setOutput (v : List Byte) (s : State) : State := { s with output := v }

/-! ## General registers (10_state.md R20) -/

/-- R[i]. No register is hardwired (R20). -/
def RegFile.get (f : RegFile) : Reg → Word
  | .r0 => f.r0
  | .r1 => f.r1
  | .r2 => f.r2
  | .r3 => f.r3
  | .r4 => f.r4
  | .r5 => f.r5
  | .r6 => f.r6
  | .r7 => f.r7

/-- R[i] <- v. -/
def RegFile.set (f : RegFile) (i : Reg) (v : Word) : RegFile :=
  match i with
  | .r0 => { f with r0 := v }
  | .r1 => { f with r1 := v }
  | .r2 => { f with r2 := v }
  | .r3 => { f with r3 := v }
  | .r4 => { f with r4 := v }
  | .r5 => { f with r5 := v }
  | .r6 => { f with r6 := v }
  | .r7 => { f with r7 := v }

def State.reg (s : State) (i : Reg) : Word := s.regs.get i

def State.setReg (i : Reg) (v : Word) (s : State) : State := s.setRegs (s.regs.set i v)

/-! ## Raw memory cells (R29) -/

/-- The Word a list of cells holds at address a; an unlisted address holds MEM_INIT. -/
def readCells : List Cell → Nat → Word
  | [], _ => Config.memInit
  | (k, w) :: rest, a => if k = a then w else readCells rest a

/-- Put a cell in its place among cells of rising addresses, replacing the one at the same address. -/
def insertCell (a : Nat) (v : Word) : List Cell → List Cell
  | [] => [(a, v)]
  | (k, w) :: rest =>
    if a < k then (a, v) :: (k, w) :: rest
    else if a = k then (a, v) :: rest
    else (k, w) :: insertCell a v rest

/-- Take the cell at an address off the list. -/
def eraseCell (a : Nat) : List Cell → List Cell
  | [] => []
  | (k, w) :: rest => if k = a then eraseCell a rest else (k, w) :: eraseCell a rest

/-- The addresses rise strictly from `low` on, lie inside the address space, and no cell lists MEM_INIT. -/
def cellsFrom (low : Nat) : List Cell → Bool
  | [] => true
  | (k, w) :: rest => decide (low ≤ k) && decide (k < Config.memWords) && (w != Config.memInit) && cellsFrom (k + 1) rest

/-- The raw cell mem[a], no side effect. -/
def Memory.read (m : Memory) (a : Word) : Word := readCells m.cells a.toNat

/-- mem[a] <- v, no side effect. Writing MEM_INIT unlists the address. -/
def Memory.write (m : Memory) (a : Word) (v : Word) : Memory :=
  { cells := if v = Config.memInit then eraseCell a.toNat m.cells else insertCell a.toNat v m.cells }

/-- The canonical form: equal memories are equal data. -/
def Memory.wf (m : Memory) : Bool := cellsFrom 0 m.cells

/-- mem[a] of a state. -/
def State.cell (s : State) (a : Word) : Word := s.mem.read a

/-- mem[a] <- v in a state. -/
def State.setCell (a v : Word) (s : State) : State := s.setMem (s.mem.write a v)

/-! ## The input collaborator (R33 to R35) -/

/-- The environment's answer to a poll, taken off the state: the next listed one, else the free value (R34; log 22). -/
def Keyboard.nextAnswer (k : Keyboard) : Bool × Keyboard :=
  match k.answers with
  | b :: bs => (b, { k with answers := bs })
  | [] => (Config.pollAnswer k.polls, { k with polls := k.polls + 1 })

/-- kbd_poll() (R34): the character taken, or none. "avail = true implies `input` is not empty". -/
def Keyboard.poll (k : Keyboard) : Option Byte × Keyboard :=
  match k.nextAnswer with
  | (true, k') =>
    match k'.input with
    | c :: rest => (some c, { k' with input := rest })
    | [] => (none, k')
  | (false, k') => (none, k')

/-- What a blocking read gives back: a character, or the end of input. -/
inductive CharRead where
  | char (c : Byte)
  | eof
  deriving DecidableEq, Repr

/-- The Word GETC and IN put in R0: zext_8(c) (D13, log 12); past the end of input the free value INPUT_EOF (log 13). -/
def CharRead.toWord : CharRead → Word
  | .char c => zext c
  | .eof => Config.inputEof

/-- The byte IN echoes (45_trap.md R186); past the end of input a free value (log 13). -/
def CharRead.echo : CharRead → Byte
  | .char c => c
  | .eof => Config.inputEofEcho

/-- kbd_getc() (R35): removes the front character; none where the read never returns. -/
def Keyboard.getc (k : Keyboard) : Option (CharRead × Keyboard) :=
  match k.input with
  | c :: rest => some (.char c, { k with input := rest })
  | [] => if k.ended then some (.eof, k) else none

/-! ## Memory as instructions see it (20_memory.md R50 to R55) -/

/-- The status cell after a poll that found input (R51). -/
def readyStatus (mode : KbsrReadyWrite) (old : Word) : Word :=
  match mode with
  | .orBit15 => old ||| 0x8000#16
  | .assign8000 => 0x8000#16

/-- The poll of R50: asks the input collaborator and refreshes the status and data cells. -/
def State.pollStatus (s : State) : State :=
  match s.kbd.poll with
  | (some c, k) =>
    ((s.setKbd k).setCell Config.kbsrAddr (readyStatus Config.kbsrReadyWrite (s.cell Config.kbsrAddr))).setCell
      Config.kbdrAddr (zext c)
  | (none, k) => (s.setKbd k).setCell Config.kbsrAddr 0x0000#16

/-- The state after the side effect of reading address a: the poll if a is the status address, else nothing (R50, R53). -/
def State.touch (a : Word) (s : State) : State := if a = Config.kbsrAddr then s.pollStatus else s

/-- MemRead(a, 1): the cell after the side effect, and the state (R50, R58). -/
def State.memRead (a : Word) (s : State) : Word × State := ((s.touch a).cell a, s.touch a)

/-- MemWrite(a, 1, v): a plain store, to the device cells too (R54, R55). -/
def State.memWrite (a v : Word) (s : State) : State := s.setCell a v

/-! ## The output collaborator (10_state.md R36, R37) -/

/-- con_put of each byte in turn. -/
def State.conPuts (bs : List Byte) (s : State) : State := s.setOutput (s.output ++ bs)

/-- con_put(b): appends one byte, unchanged (R36; log 29). -/
def State.conPut (b : Byte) (s : State) : State := s.conPuts [b]

/-- con_flush(): no architectural effect (R37; log 21). -/
def State.conFlush (s : State) : State := s

/-! ## The string loop of PUTS and PUTSP (45_trap.md R185, R187) -/

/-- Read Words from a on through MemRead until a zero Word; put the bytes `emit` gives of each (log 20). None when the
fuel runs out before a zero Word. -/
def State.printWords (emit : Word → List Byte) : Nat → Word → State → Option State
  | 0, _, _ => none
  | fuel + 1, a, s =>
    let r := s.memRead a
    if r.1 = 0x0000#16 then some r.2
    else State.printWords emit fuel (a + 1) (r.2.conPuts (emit r.1))

/-- Reads enough for every string that ends (log 32): each round of the 65,536 addresses polls once, a poll that finds no
input reads as zero, and one that finds input takes a character. -/
def State.stringFuel (s : State) : Nat := Config.memWords * (s.kbd.input.length + 1)

/-- The whole loop, from the address in R0. -/
def State.printString (emit : Word → List Byte) (s : State) : Option State :=
  State.printWords emit s.stringFuel (s.reg .r0) s

/-- PUTS writes the low byte of each Word (R185). -/
def putsBytes (w : Word) : List Byte := [lowByte w]

/-- PUTSP writes the low byte, then the high byte if it is not zero (R187). -/
def putspBytes (w : Word) : List Byte := if highByte w = 0x00#8 then [lowByte w] else [lowByte w, highByte w]

/-! ## Ending a run: taking a fatal condition, and HALT (60_exceptions.md R210, R211, R217; 41_dispatcher.md R125) -/

/-- The machine's exceptions; the list is complete (60_exceptions.md R213). -/
inductive Exception where
  | reservedOpcode (op : BitVec 4)
  | unknownTrap (v : BitVec 8)
  deriving DecidableEq, Repr

/-- What is recorded of an exception: the run status and nothing else (R210, R211). -/
def Exception.status : Exception → RunStatus
  | .reservedOpcode op => .fatalReservedOpcode op
  | .unknownTrap v => .fatalUnknownTrap v

/-- raise: running <- false with the status of the condition. It saves nothing and vectors nowhere (R217), and there is no
return from it (R219). -/
def State.raise (e : Exception) (s : State) : State := s.setRun (.ended e.status)

/-- halt() (41_dispatcher.md R125). -/
def State.halt (s : State) : State := s.setRun (.ended .halted)

/-- The exit status an end of run leaves to the host (41_dispatcher.md R126; log 17). -/
def RunStatus.exitStatus : RunStatus → Nat
  | .halted => Config.exitHalt
  | .fatalReservedOpcode _ => Config.exitFatal
  | .fatalUnknownTrap _ => Config.exitFatal

/-! ## Fetch (41_dispatcher.md R121, R122) -/

/-- The fetch read at pc, with its poll if pc is the status address, then the increment of pc. -/
def State.fetch (s : State) : Word × State :=
  let r := s.memRead s.pc
  (r.1, r.2.setPc (s.pc + 1))

end Sys2Proof.Machine
end

