-- ==== Sys2Proof/Machine/Flags.lean ====
section
/-! DEFINITION. Every computation of and on the condition flags (42_operate.md R140; 43_control.md R150). -/

namespace Sys2Proof.Machine

/-- The flag of a value: "value == 0 → ZERO; bit 15 set → NEGATIVE; else → POSITIVE" (R140). -/
def condOf (v : Word) : Cond :=
  if v = 0x0000#16 then .zero
  else if v.getLsbD 15 then .negative
  else .positive

/-- setcc(i): COND from the register's new value (R140). -/
def State.setcc (i : Reg) (s : State) : State := s.setCond (condOf (s.reg i))

/-- BR's test: (ir[11:9] & COND) != 0 (R150). -/
def branchTaken (n z p : Bool) (c : Cond) : Bool := (nzpBits n z p &&& c.bits) != 0b000#3

/-- R[dr] <- v, then setcc(dr): the ending of every flag-setting instruction (10_state.md R27). -/
def State.writeResult (dr : Reg) (v : Word) (s : State) : State := (s.setReg dr v).setcc dr

end Sys2Proof.Machine
end

