-- ==== Sys2Proof/Machine/Operands.lean ====
section
/-! DEFINITION. The operand forms: the three addressing modes (44_load_store.md R167) and the PC-relative targets
(43_control.md R150, R152). pc is the already-incremented pc (00_scope.md R7). -/

namespace Sys2Proof.Machine

/-- PC-relative: pc + sext_N(offset), N = 9 or 11, modulo 65,536. -/
def State.pcRelative {n : Nat} (off : BitVec n) (s : State) : Word := s.pc + sext off

/-- Base + offset: R[BaseR] + sext_6(offset6), modulo 65,536. -/
def State.baseOffset (base : Reg) (off : BitVec 6) (s : State) : Word := s.reg base + sext off

/-- Indirect: ea = MemRead(pc + sext_9(offset)), with the state after that read. -/
def State.indirect (off : BitVec 9) (s : State) : Word × State := s.memRead (s.pcRelative off)

end Sys2Proof.Machine
end

