-- ==== Sys2Proof/Machine/Control.lean ====
section
/-! DEFINITION. The control transfers (43_control.md). None changes COND (R154). -/

namespace Sys2Proof.Machine

/-- R150: if (ir[11:9] & COND) != 0 then pc <- pc + sext_9(PCoffset9). -/
def execBr (n z p : Bool) (off : BitVec 9) (s : State) : Host.Outcome State Fault Refusal :=
  .next (if branchTaken n z p s.cond then s.setPc (s.pcRelative off) else s)

/-- R151: pc <- R[BaseR]. -/
def execJmp (base : Reg) (s : State) : Host.Outcome State Fault Refusal :=
  .next (s.setPc (s.reg base))

/-- R152: R[7] <- pc; pc <- pc + sext_11(PCoffset11). -/
def execJsr (off : BitVec 11) (s : State) : Host.Outcome State Fault Refusal :=
  let linked := s.setReg .r7 s.pc
  .next (linked.setPc (linked.pcRelative off))

/-- R153, in this order: R[7] <- pc; pc <- R[BaseR], "read after the write of R[7]". -/
def execJsrr (base : Reg) (s : State) : Host.Outcome State Fault Refusal :=
  let linked := s.setReg .r7 s.pc
  .next (linked.setPc (linked.reg base))

end Sys2Proof.Machine
end

