-- ==== Sys2Proof/Machine/LoadStore.lean ====
section
/-! DEFINITION. Loads, stores and load effective address (44_load_store.md). None can fault (R168). -/

namespace Sys2Proof.Machine

/-- R160: R[DR] <- MemRead(pc + sext_9(PCoffset9)); setcc(DR). -/
def execLd (dr : Reg) (off : BitVec 9) (s : State) : Host.Outcome State Fault Refusal :=
  let data := s.memRead (s.pcRelative off)
  .next (data.2.writeResult dr data.1)

/-- R161: the pointer's read, then the data's read; R[DR] <- data; setcc(DR). -/
def execLdi (dr : Reg) (off : BitVec 9) (s : State) : Host.Outcome State Fault Refusal :=
  let ptr := s.indirect off
  let data := ptr.2.memRead ptr.1
  .next (data.2.writeResult dr data.1)

/-- R162: R[DR] <- MemRead(R[BaseR] + sext_6(offset6)); setcc(DR). -/
def execLdr (dr base : Reg) (off : BitVec 6) (s : State) : Host.Outcome State Fault Refusal :=
  let data := s.memRead (s.baseOffset base off)
  .next (data.2.writeResult dr data.1)

/-- R163: R[DR] <- pc + sext_9(PCoffset9), no memory access; setcc(DR). -/
def execLea (dr : Reg) (off : BitVec 9) (s : State) : Host.Outcome State Fault Refusal :=
  .next (s.writeResult dr (s.pcRelative off))

/-- R164: MemWrite(pc + sext_9(PCoffset9), R[SR]). -/
def execSt (sr : Reg) (off : BitVec 9) (s : State) : Host.Outcome State Fault Refusal :=
  .next (s.memWrite (s.pcRelative off) (s.reg sr))

/-- R165: the pointer's read, then MemWrite(pointer, R[SR]). -/
def execSti (sr : Reg) (off : BitVec 9) (s : State) : Host.Outcome State Fault Refusal :=
  let ptr := s.indirect off
  .next (ptr.2.memWrite ptr.1 (ptr.2.reg sr))

/-- R166: MemWrite(R[BaseR] + sext_6(offset6), R[SR]). -/
def execStr (sr base : Reg) (off : BitVec 6) (s : State) : Host.Outcome State Fault Refusal :=
  .next (s.memWrite (s.baseOffset base off) (s.reg sr))

end Sys2Proof.Machine
end

