-- ==== Sys2Proof/Machine/Operate.lean ====
section
/-! DEFINITION. The operate instructions (42_operate.md). -/

namespace Sys2Proof.Machine

/-- R141: R[DR] <- R[SR1] + R[SR2]; setcc(DR). -/
def execAddReg (dr sr1 sr2 : Reg) (s : State) : Host.Outcome State Fault Refusal :=
  .next (s.writeResult dr (s.reg sr1 + s.reg sr2))

/-- R142: R[DR] <- R[SR1] + sext_5(imm5); setcc(DR). -/
def execAddImm (dr sr1 : Reg) (imm5 : BitVec 5) (s : State) : Host.Outcome State Fault Refusal :=
  .next (s.writeResult dr (s.reg sr1 + sext imm5))

/-- R143: R[DR] <- R[SR1] & R[SR2]; setcc(DR). -/
def execAndReg (dr sr1 sr2 : Reg) (s : State) : Host.Outcome State Fault Refusal :=
  .next (s.writeResult dr (s.reg sr1 &&& s.reg sr2))

/-- R144: R[DR] <- R[SR1] & sext_5(imm5); setcc(DR). -/
def execAndImm (dr sr1 : Reg) (imm5 : BitVec 5) (s : State) : Host.Outcome State Fault Refusal :=
  .next (s.writeResult dr (s.reg sr1 &&& sext imm5))

/-- R145: R[DR] <- ~R[SR]; setcc(DR). -/
def execNotReg (dr sr : Reg) (s : State) : Host.Outcome State Fault Refusal :=
  .next (s.writeResult dr (~~~ s.reg sr))

end Sys2Proof.Machine
end

