-- ==== Sys2Proof/Machine/Reserved.lean ====
section
/-! DEFINITION. The two reserved opcodes (41_dispatcher.md R124): raise ReservedOpcode(ir[15:12]). -/

namespace Sys2Proof.Machine

/-- R124 for opcode 8. -/
def execReserved8 (s : State) : Host.Outcome State Fault Refusal :=
  .next (s.raise (.reservedOpcode (Config.opcodeBits .reserved8)))

/-- R124 for opcode 13. -/
def execReserved13 (s : State) : Host.Outcome State Fault Refusal :=
  .next (s.raise (.reservedOpcode (Config.opcodeBits .reserved13)))

end Sys2Proof.Machine
end

