-- ==== Sys2Proof/Machine/Trap.lean ====
section
/-! DEFINITION. The six trap routines, performed by the core itself, and the unknown vector (45_trap.md). No routine
writes pc or memory cells other than through a poll (R182). -/

namespace Sys2Proof.Machine

/-- What TRAP does before its routine: nothing, or R[7] <- pc in the other value of TRAP_SAVES_R7 (R182, D11, log 10). -/
def State.trapEntry (savesR7 : Bool) (s : State) : State := if savesR7 then s.setReg .r7 s.pc else s

/-- R[0] <- the character's Word, and setcc(0) under TRAP_INPUT_UPDATES_FLAGS (R183, R186, D12, log 11). -/
def State.takeChar (updatesFlags : Bool) (c : CharRead) (s : State) : State :=
  if updatesFlags then s.writeResult .r0 c.toWord else s.setReg .r0 c.toWord

/-- R183, GETC. -/
def execTrapGetc (s : State) : Host.Outcome State Fault Refusal :=
  let s := s.trapEntry Config.trapSavesR7
  match s.kbd.getc with
  | some (c, k) => .next ((s.setKbd k).takeChar Config.trapInputUpdatesFlags c)
  | none => .fault .waitingForInput

/-- R184, OUT: the low byte of R0, then flush. -/
def execTrapOut (s : State) : Host.Outcome State Fault Refusal :=
  let s := s.trapEntry Config.trapSavesR7
  .next ((s.conPut (lowByte (s.reg .r0))).conFlush)

/-- R185, PUTS: the low byte of each Word from R0 on until a zero Word, then flush. -/
def execTrapPuts (s : State) : Host.Outcome State Fault Refusal :=
  match (s.trapEntry Config.trapSavesR7).printString putsBytes with
  | some t => .next t.conFlush
  | none => .fault .stringNeverEnds

/-- R186, IN: prompt, blocking read, echo, R0, flush. -/
def execTrapIn (s : State) : Host.Outcome State Fault Refusal :=
  let s := (s.trapEntry Config.trapSavesR7).conPuts Config.inPrompt
  match s.kbd.getc with
  | some (c, k) => .next ((((s.setKbd k).conPut c.echo).takeChar Config.trapInputUpdatesFlags c).conFlush)
  | none => .fault .waitingForInput

/-- R187, PUTSP: the low byte, then a non-zero high byte, of each Word from R0 on until a zero Word, then flush. -/
def execTrapPutsp (s : State) : Host.Outcome State Fault Refusal :=
  match (s.trapEntry Config.trapSavesR7).printString putspBytes with
  | some t => .next t.conFlush
  | none => .fault .stringNeverEnds

/-- R188, HALT: the notice, flush, halt(). -/
def execTrapHalt (s : State) : Host.Outcome State Fault Refusal :=
  .next (((s.trapEntry Config.trapSavesR7).conPuts Config.haltNotice).conFlush).halt

/-- R189: raise UnknownTrap(v) (D16, log 16). -/
def execTrapUnknown (v : BitVec 8) (s : State) : Host.Outcome State Fault Refusal :=
  .next (s.raise (.unknownTrap v))

end Sys2Proof.Machine
end

