-- ==== Sys2Proof/Machine/Step.lean ====
section
/-! DEFINITION. One step of the dispatcher (41_dispatcher.md R121). -/

namespace Sys2Proof.Machine

/-- R121: "One step, enabled exactly when `running` is true": fetch, increment, decode, dispatch. -/
def step (s : State) : Host.Outcome State Fault Refusal :=
  match s.run with
  | .running => exec (decode s.fetch.1) s.fetch.2
  | .ended _ => .fault .notRunning

/-- s with the instruction w stored in the cell the next step fetches, which is mem[pc] (20_memory.md R67: an image word
and a stored word are indistinguishable to the fetch; log 33). Every instruction has 16 bits, so the bits above nbits are
those of w as a number below 2^nbits. -/
def State.withFetchWord (s : State) (nbits w : Nat) : State := s.setCell s.pc (BitVec.ofNat 16 (w % 2 ^ nbits))

end Sys2Proof.Machine
end

