-- ==== Sys2Proof/Machine/Environment.lean ====
section
/-! DEFINITION. What the environment can do to a machine between two steps (00_scope.md R10; 10_state.md R33 to R35): only
the input collaborator can act, and no move alters the core (60_exceptions.md R218; log 23). -/

namespace Sys2Proof.Machine

/-- A further character joins the end of the input sequence (R33). -/
def State.offerInput (c : Byte) (s : State) : State := s.setKbd { s.kbd with input := s.kbd.input ++ [c] }

/-- Whether the input sequence is complete (R35). -/
def State.endInput (ended : Bool) (s : State) : State := s.setKbd { s.kbd with ended := ended }

/-- The environment's answers to the next polls (R34). -/
def State.answerPolls (answers : List Bool) (s : State) : State := s.setKbd { s.kbd with answers := answers }

end Sys2Proof.Machine
end

