-- ==== Sys2Proof/Machine/Loader.lean ====
section
/-! DEFINITION. The boot procedure: the image loader (70_reset_and_hazards.md R246 to R252). -/

namespace Sys2Proof.Machine

/-- The Word a little-endian host reads from a byte pair: b1 * 256 + b0 (40_word_utilities.md R114). -/
def nativePair (b0 b1 : Byte) : Word := b1 ++ b0

/-- The Word of an image byte pair: the native pair, byte-swapped (R247), which is b0 * 256 + b1 (R246). -/
def imageWord (b0 b1 : Byte) : Word := bswap (nativePair b0 b1)

/-- R249: the writable capacity in Words from an origin on. -/
def capacity (capAtOrigin0 : Nat) (origin : Word) : Nat :=
  if origin = 0x0000#16 then capAtOrigin0 else Config.memWords - origin.toNat

/-- R248: raw cell writes in rising order until the stream or the capacity is exhausted. A trailing single byte is ignored
(R250, log 19). -/
def loadWords : List Byte → Word → Nat → Memory → Memory
  | b0 :: b1 :: rest, a, cap + 1, m => loadWords rest (a + 1) cap (m.write a (imageWord b0 b1))
  | _, _, _, m => m

/-- Why no machine comes to run (R252). -/
inductive LoadFailure where
  /-- "image file cannot be opened/read". -/
  | unreadable
  /-- A stream of fewer than two bytes holds no origin (R250, log 19). -/
  | noOrigin
  deriving DecidableEq, Repr

/-- The exit status a load failure leaves to the host: "a non-zero exit status" (R252, log 36). -/
def LoadFailure.exitStatus : LoadFailure → Nat
  | .unreadable => Config.exitLoadFailure
  | .noOrigin => Config.exitLoadFailure

/-- load(B) with a capacity for origin 0 (R248): memory only, "no register, not PC, not COND". -/
def loadWith (capAtOrigin0 : Nat) (image : List Byte) (s : State) : Except LoadFailure State :=
  match image with
  | b0 :: b1 :: payload =>
    let origin := imageWord b0 b1
    .ok (s.setMem (loadWords payload origin (capacity capAtOrigin0 origin) s.mem))
  | _ => .error .noOrigin

/-- load(B) at LOADER_CAP_AT_ORIGIN0's default (D18, log 18). -/
def load (image : List Byte) (s : State) : Except LoadFailure State := loadWith Config.loaderCapAtOrigin0 image s

/-- Reset, then the loader (R240): the state the dispatcher starts in. `none` is a source that cannot be opened or read. -/
def boot (source : Option (List Byte)) : Except LoadFailure State :=
  match source with
  | some image => load image State.reset
  | none => .error .unreadable

end Sys2Proof.Machine
end

