-- ==== Sys2Proof/Safety.lean ====
section
/-! DEFINITION. The terms statements use: the invariant of every state, good ends of a run, what an instruction may
change (10_state.md R22, R24, R27), and frames between two states. -/

namespace Sys2Proof.Machine

/-- The run statuses that can occur: op in {8, 13}, v a vector of no routine (10_state.md R32; 41_dispatcher.md R126). -/
def RunState.legal : RunState → Bool
  | .running => true
  | .ended .halted => true
  | .ended (.fatalReservedOpcode op) => op = Config.opcodeBits .reserved8 || op = Config.opcodeBits .reserved13
  | .ended (.fatalUnknownTrap v) => (Config.trapRoutineOf v).isNone

/-- The invariant of every reachable state (10_state.md R41): memory in its canonical form and a legal run status. That
COND is one of three and every register a Word holds by type. -/
def State.Inv (s : State) : Prop := s.mem.wf = true ∧ s.run.legal = true

/-- "Only `Halted` is a good end; the two fatal statuses are faults" (41_dispatcher.md R126). -/
def State.goodEnd (s : State) : Bool := s.run = .ended .halted

/-- The two device cells (10_state.md R31). -/
def deviceCells : List Word := [Config.kbsrAddr, Config.kbdrAddr]

/-- Every register outside the list is unchanged. -/
def SameRegsBut (written : List Reg) (s t : State) : Prop := ∀ r, r ∉ written → t.reg r = s.reg r

/-- Every cell outside the list is unchanged. -/
def SameCellsBut (written : List Word) (s t : State) : Prop := ∀ a, a ∉ written → t.cell a = s.cell a

/-- t is s after R[dr] <- v; setcc(dr), and nothing else (42_operate.md R141 to R145). -/
structure WroteResult (dr : Reg) (v : Word) (s t : State) : Prop where
  value : t.reg dr = v
  cond : t.cond = condOf v
  regs : SameRegsBut [dr] s t
  pc : t.pc = s.pc
  mem : t.mem = s.mem
  run : t.run = s.run
  kbd : t.kbd = s.kbd
  output : t.output = s.output

/-- t is s after R[dr] <- MemRead(a, 1); setcc(dr), and nothing else (44_load_store.md R160 to R162; 20_memory.md R50):
only a read of the status address touches memory (the two device cells) and the input collaborator. -/
structure LoadedFrom (dr : Reg) (a : Word) (s t : State) : Prop where
  value : t.reg dr = (s.memRead a).1
  cond : t.cond = condOf (s.memRead a).1
  regs : SameRegsBut [dr] s t
  pc : t.pc = s.pc
  run : t.run = s.run
  output : t.output = s.output
  mem : t.mem = (s.memRead a).2.mem
  kbd : t.kbd = (s.memRead a).2.kbd
  cells : SameCellsBut (if a = Config.kbsrAddr then deviceCells else []) s t
  plain : a ≠ Config.kbsrAddr → t.reg dr = s.cell a ∧ t.mem = s.mem ∧ t.kbd = s.kbd

/-- t is s after MemWrite(a, 1, v), and nothing else (20_memory.md R54). -/
structure Stored (a v : Word) (s t : State) : Prop where
  value : t.cell a = v
  cells : SameCellsBut [a] s t
  regs : t.regs = s.regs
  pc : t.pc = s.pc
  cond : t.cond = s.cond
  run : t.run = s.run
  kbd : t.kbd = s.kbd
  output : t.output = s.output

/-- The string loop of 45_trap.md R185 and R187 as the spec writes it, with no bound: from address a and state s it ends in
state t. -/
inductive StringLoop (emit : Word → List Byte) : Word → State → State → Prop where
  | stop {a : Word} {s : State} (h : (s.memRead a).1 = 0x0000#16) : StringLoop emit a s (s.memRead a).2
  | more {a : Word} {s t : State} (h : (s.memRead a).1 ≠ 0x0000#16)
      (rest : StringLoop emit (a + 1) ((s.memRead a).2.conPuts (emit (s.memRead a).1)) t) : StringLoop emit a s t

/-- The bits of a word that its instruction's handler looks at: 30_encoding.md R81 without its "x" bits. -/
def usedBits : Instr → Word
  | .br _ _ _ _ => 0xFFFF#16
  | .addReg _ _ _ => 0xFFE7#16
  | .addImm _ _ _ => 0xFFFF#16
  | .andReg _ _ _ => 0xFFE7#16
  | .andImm _ _ _ => 0xFFFF#16
  | .notReg _ _ => 0xFFC0#16
  | .ld _ _ => 0xFFFF#16
  | .ldi _ _ => 0xFFFF#16
  | .ldr _ _ _ => 0xFFFF#16
  | .lea _ _ => 0xFFFF#16
  | .st _ _ => 0xFFFF#16
  | .sti _ _ => 0xFFFF#16
  | .str _ _ _ => 0xFFFF#16
  | .jmp _ => 0xF1C0#16
  | .jsr _ => 0xFFFF#16
  | .jsrr _ => 0xF9C0#16
  | .reserved8 => 0xF000#16
  | .reserved13 => 0xF000#16
  | .trapGetc => 0xF0FF#16
  | .trapOut => 0xF0FF#16
  | .trapPuts => 0xF0FF#16
  | .trapIn => 0xF0FF#16
  | .trapPutsp => 0xF0FF#16
  | .trapHalt => 0xF0FF#16
  | .trapUnknown _ => 0xF0FF#16

/-- 10_state.md R22, the column "writes". -/
def writtenRegs : Instr → List Reg
  | .addReg dr _ _ => [dr]
  | .addImm dr _ _ => [dr]
  | .andReg dr _ _ => [dr]
  | .andImm dr _ _ => [dr]
  | .notReg dr _ => [dr]
  | .ld dr _ => [dr]
  | .ldi dr _ => [dr]
  | .ldr dr _ _ => [dr]
  | .lea dr _ => [dr]
  | .jsr _ => [.r7]
  | .jsrr _ => [.r7]
  | .trapGetc => [.r0]
  | .trapIn => [.r0]
  | .br _ _ _ _ => []
  | .jmp _ => []
  | .st _ _ => []
  | .sti _ _ => []
  | .str _ _ _ => []
  | .reserved8 => []
  | .reserved13 => []
  | .trapOut => []
  | .trapPuts => []
  | .trapPutsp => []
  | .trapHalt => []
  | .trapUnknown _ => []

/-- 10_state.md R27: the register whose new value an instruction sets COND from; none where it leaves COND alone. -/
def flagReg : Instr → Option Reg
  | .addReg dr _ _ => some dr
  | .addImm dr _ _ => some dr
  | .andReg dr _ _ => some dr
  | .andImm dr _ _ => some dr
  | .notReg dr _ => some dr
  | .ld dr _ => some dr
  | .ldi dr _ => some dr
  | .ldr dr _ _ => some dr
  | .lea dr _ => some dr
  | .trapGetc => some .r0
  | .trapIn => some .r0
  | .br _ _ _ _ => none
  | .jsr _ => none
  | .jsrr _ => none
  | .jmp _ => none
  | .st _ _ => none
  | .sti _ _ => none
  | .str _ _ _ => none
  | .reserved8 => none
  | .reserved13 => none
  | .trapOut => none
  | .trapPuts => none
  | .trapPutsp => none
  | .trapHalt => none
  | .trapUnknown _ => none

/-- 10_state.md R24: the instructions that write pc again after the increment. -/
def writesPc : Instr → Bool
  | .br _ _ _ _ => true
  | .jmp _ => true
  | .jsr _ => true
  | .jsrr _ => true
  | .addReg _ _ _ => false
  | .addImm _ _ _ => false
  | .andReg _ _ _ => false
  | .andImm _ _ _ => false
  | .notReg _ _ => false
  | .ld _ _ => false
  | .ldi _ _ => false
  | .ldr _ _ _ => false
  | .lea _ _ => false
  | .st _ _ => false
  | .sti _ _ => false
  | .str _ _ _ => false
  | .reserved8 => false
  | .reserved13 => false
  | .trapGetc => false
  | .trapOut => false
  | .trapPuts => false
  | .trapIn => false
  | .trapPutsp => false
  | .trapHalt => false
  | .trapUnknown _ => false

/-- The address a store instruction stores to, by the expression its meaning uses (44_load_store.md R164 to R166); none
where the instruction stores nothing. -/
def storeAddress : Instr → State → Option Word
  | .st _ off, s => some (s.pcRelative off)
  | .sti _ off, s => some (s.indirect off).1
  | .str _ base off, s => some (s.baseOffset base off)
  | .br _ _ _ _, _ => none
  | .addReg _ _ _, _ => none
  | .addImm _ _ _, _ => none
  | .andReg _ _ _, _ => none
  | .andImm _ _ _, _ => none
  | .notReg _ _, _ => none
  | .ld _ _, _ => none
  | .ldi _ _, _ => none
  | .ldr _ _ _, _ => none
  | .lea _ _, _ => none
  | .jsr _, _ => none
  | .jsrr _, _ => none
  | .jmp _, _ => none
  | .reserved8, _ => none
  | .reserved13, _ => none
  | .trapGetc, _ => none
  | .trapOut, _ => none
  | .trapPuts, _ => none
  | .trapIn, _ => none
  | .trapPutsp, _ => none
  | .trapHalt, _ => none
  | .trapUnknown _, _ => none

/-- The addresses an instruction's own execution reads through MemRead, where the status address polls (20_memory.md
R58), for the instructions that read a number of cells known beforehand; PUTS and PUTSP read a string. -/
def readAddresses : Instr → State → List Word
  | .ld _ off, s => [s.pcRelative off]
  | .ldi _ off, s => [s.pcRelative off, (s.indirect off).1]
  | .ldr _ base off, s => [s.baseOffset base off]
  | .sti _ off, s => [s.pcRelative off]
  | .st _ _, _ => []
  | .str _ _ _, _ => []
  | .br _ _ _ _, _ => []
  | .addReg _ _ _, _ => []
  | .addImm _ _ _, _ => []
  | .andReg _ _ _, _ => []
  | .andImm _ _ _, _ => []
  | .notReg _ _, _ => []
  | .lea _ _, _ => []
  | .jsr _, _ => []
  | .jsrr _, _ => []
  | .jmp _, _ => []
  | .reserved8, _ => []
  | .reserved13, _ => []
  | .trapGetc, _ => []
  | .trapOut, _ => []
  | .trapPuts, _ => []
  | .trapIn, _ => []
  | .trapPutsp, _ => []
  | .trapHalt, _ => []
  | .trapUnknown _, _ => []

end Sys2Proof.Machine
end

