-- ==== Sys2Proof/Certificates/Slice0/Obligations.lean ====
section
/-! DEFINITION. The statements for the provers. In a statement about exec, `s` is the state the handler starts in, with pc
already incremented (00_scope.md R7). Where a statement speaks of an instruction's word, opcode numbers and trap vectors
are the parameters OPCODE_MAP and TRAP_VECTORS (log 1, log 2), and KBSR_ADDR, KBDR_ADDR are parameters too (log 3). -/

open Sys2Proof Sys2Proof.Machine

/-! ## Encoding -/

/-- 30_encoding.md R92: the three words the source prints. -/
def Obligations.SourceWordsDecode : Prop :=
  decode 0x1021#16 = .addImm .r0 .r0 0b00001#5 ∧ decode 0xF025#16 = .trapHalt ∧ decode 0x8000#16 = .reserved8

/-- One word of each row of the opcode table, from the derived vectors of 95_test_vectors.md section 2. The numbers are the
spec's D1 and D2 (log 1, log 2). -/
def Obligations.OneWordOfEachRowDecodes : Prop :=
  decode 0x03FD#16 = .br false false true 0x1FD#9 ∧ decode 0x1042#16 = .addReg .r0 .r1 .r2 ∧
  decode 0x1030#16 = .addImm .r0 .r0 0b10000#5 ∧ decode 0x2002#16 = .ld .r0 2#9 ∧
  decode 0x3202#16 = .st .r1 2#9 ∧ decode 0x4C00#16 = .jsr 0x400#11 ∧ decode 0x4080#16 = .jsrr .r2 ∧
  decode 0x5042#16 = .andReg .r0 .r1 .r2 ∧ decode 0x502F#16 = .andImm .r0 .r0 0b01111#5 ∧
  decode 0x6460#16 = .ldr .r2 .r1 0b100000#6 ∧ decode 0x7A7F#16 = .str .r5 .r1 0b111111#6 ∧
  decode 0x8FFF#16 = .reserved8 ∧ decode 0x907F#16 = .notReg .r0 .r1 ∧ decode 0xA1FF#16 = .ldi .r0 0x1FF#9 ∧
  decode 0xB201#16 = .sti .r1 1#9 ∧ decode 0xC1C0#16 = .jmp .r7 ∧ decode 0xD123#16 = .reserved13 ∧
  decode 0xE1FF#16 = .lea .r0 0x1FF#9 ∧ decode 0xF020#16 = .trapGetc ∧ decode 0xF021#16 = .trapOut ∧
  decode 0xF022#16 = .trapPuts ∧ decode 0xF023#16 = .trapIn ∧ decode 0xF024#16 = .trapPutsp ∧
  decode 0xFF25#16 = .trapHalt ∧ decode 0xF026#16 = .trapUnknown 0x26#8

/-- Decode and encode agree for every well-formed instruction, at every value its fields admit. -/
def Obligations.DecodeOfEncodeIsTheInstruction : Prop :=
  ∀ i : Instr, i.wellFormed = true → decode (encode i) = i

/-- Decoding is total: every Word gives a well-formed instruction, whose own word decodes to it again. -/
def Obligations.EveryWordDecodesToAWellFormedInstruction : Prop :=
  ∀ w : Word, (decode w).wellFormed = true ∧ decode (encode (decode w)) = decode w

/-- Two words that differ only in bits 30_encoding.md R81 marks "x" decode to the same instruction (R84, the spec's D28,
log 27). -/
def Obligations.IgnoredBitsDoNotChangeDecoding : Prop :=
  ∀ w w' : Word, (w ^^^ w') &&& usedBits (decode w) = 0x0000#16 → decode w' = decode w

/-- Which words are reserved opcodes and which are TRAPs with an unknown vector (30_encoding.md R87, R88; the number 13 is
the spec's D1, log 1). -/
def Obligations.ReservedAndUnknownTrapWords : Prop :=
  ∀ w : Word,
    (decode w = .reserved8 ↔ w.extractLsb' 12 4 = 8#4) ∧
    (decode w = .reserved13 ↔ w.extractLsb' 12 4 = 13#4) ∧
    ∀ v, decode w = .trapUnknown v ↔
      w.extractLsb' 12 4 = 15#4 ∧ w.extractLsb' 0 8 = v ∧
        v ≠ 0x20#8 ∧ v ≠ 0x21#8 ∧ v ≠ 0x22#8 ∧ v ≠ 0x23#8 ∧ v ≠ 0x24#8 ∧ v ≠ 0x25#8

/-! ## Word utilities -/

/-- 40_word_utilities.md R111, for every N from 1 to 15; the last clause is that a sum with the extended field moves by the
field's signed reading. -/
def Obligations.SignExtensionLaw : Prop :=
  ∀ (n : Nat) (v : Word), 1 ≤ n → n ≤ 15 →
    (v.toNat % 2 ^ n < 2 ^ (n - 1) → (signExtend v n).toNat = v.toNat % 2 ^ n) ∧
    (2 ^ (n - 1) ≤ v.toNat % 2 ^ n → (signExtend v n).toNat = v.toNat % 2 ^ n + 65536 - 2 ^ n) ∧
    ∀ w : Word, signExtend v n + w = w + BitVec.ofInt 16
      (if v.toNat % 2 ^ n < 2 ^ (n - 1) then (v.toNat % 2 ^ n : Int) else (v.toNat % 2 ^ n : Int) - 2 ^ n)

/-- 40_word_utilities.md R113. -/
def Obligations.ByteSwapTwiceIsTheIdentity : Prop := ∀ x : Word, bswap (bswap x) = x

/-! ## The flag update -/

/-- 42_operate.md R140: the three cases, by value and by range, and nothing but COND changes. -/
def Obligations.FlagUpdateHasThreeCases : Prop :=
  ∀ (i : Reg) (s : State),
    (s.reg i = 0x0000#16 → (s.setcc i).cond = .zero) ∧
    (0x8000 ≤ (s.reg i).toNat → (s.setcc i).cond = .negative) ∧
    (0x0001 ≤ (s.reg i).toNat → (s.reg i).toNat ≤ 0x7FFF → (s.setcc i).cond = .positive) ∧
    ∃ c, s.setcc i = { s with cond := c }

/-! ## Operate instructions -/

/-- 42_operate.md R141. -/
def Obligations.AddRegisterForm : Prop :=
  ∀ dr sr1 sr2 : Reg,
    (∀ w : Word, w.extractLsb' 12 4 = Config.opcodeBits .add → w.getLsbD 5 = false → w.extractLsb' 9 3 = dr.bits →
      w.extractLsb' 6 3 = sr1.bits → w.extractLsb' 0 3 = sr2.bits → decode w = .addReg dr sr1 sr2) ∧
    ∀ s : State, ∃ t, exec (.addReg dr sr1 sr2) s = .next t ∧ WroteResult dr (s.reg sr1 + s.reg sr2) s t

/-- 42_operate.md R142. -/
def Obligations.AddImmediateForm : Prop :=
  ∀ (dr sr1 : Reg) (imm5 : BitVec 5),
    (∀ w : Word, w.extractLsb' 12 4 = Config.opcodeBits .add → w.getLsbD 5 = true → w.extractLsb' 9 3 = dr.bits →
      w.extractLsb' 6 3 = sr1.bits → w.extractLsb' 0 5 = imm5 → decode w = .addImm dr sr1 imm5) ∧
    ∀ s : State, ∃ t, exec (.addImm dr sr1 imm5) s = .next t ∧ WroteResult dr (s.reg sr1 + imm5.signExtend 16) s t

/-- 42_operate.md R143. -/
def Obligations.AndRegisterForm : Prop :=
  ∀ dr sr1 sr2 : Reg,
    (∀ w : Word, w.extractLsb' 12 4 = Config.opcodeBits .and → w.getLsbD 5 = false → w.extractLsb' 9 3 = dr.bits →
      w.extractLsb' 6 3 = sr1.bits → w.extractLsb' 0 3 = sr2.bits → decode w = .andReg dr sr1 sr2) ∧
    ∀ s : State, ∃ t, exec (.andReg dr sr1 sr2) s = .next t ∧ WroteResult dr (s.reg sr1 &&& s.reg sr2) s t

/-- 42_operate.md R144. -/
def Obligations.AndImmediateForm : Prop :=
  ∀ (dr sr1 : Reg) (imm5 : BitVec 5),
    (∀ w : Word, w.extractLsb' 12 4 = Config.opcodeBits .and → w.getLsbD 5 = true → w.extractLsb' 9 3 = dr.bits →
      w.extractLsb' 6 3 = sr1.bits → w.extractLsb' 0 5 = imm5 → decode w = .andImm dr sr1 imm5) ∧
    ∀ s : State, ∃ t, exec (.andImm dr sr1 imm5) s = .next t ∧ WroteResult dr (s.reg sr1 &&& imm5.signExtend 16) s t

/-- 42_operate.md R145. -/
def Obligations.NotComplementsItsSource : Prop :=
  ∀ dr sr : Reg,
    (∀ w : Word, w.extractLsb' 12 4 = Config.opcodeBits .not → w.extractLsb' 9 3 = dr.bits →
      w.extractLsb' 6 3 = sr.bits → decode w = .notReg dr sr) ∧
    ∀ s : State, ∃ t, exec (.notReg dr sr) s = .next t ∧ WroteResult dr (s.reg sr ^^^ 0xFFFF#16) s t

/-! ## Control transfer -/

/-- 43_control.md R150: taken when a named condition holds, else only past the instruction; nothing but pc changes. -/
def Obligations.BranchTakenOrNot : Prop :=
  ∀ (n z p : Bool) (off : BitVec 9),
    (∀ w : Word, w.extractLsb' 12 4 = Config.opcodeBits .br → w.getLsbD 11 = n → w.getLsbD 10 = z → w.getLsbD 9 = p →
      w.extractLsb' 0 9 = off → decode w = .br n z p off) ∧
    ∀ s : State,
      exec (.br n z p off) s = .next
        (if (n = true ∧ s.cond = .negative) ∨ (z = true ∧ s.cond = .zero) ∨ (p = true ∧ s.cond = .positive)
          then { s with pc := s.pc + off.signExtend 16 } else s)

/-- 43_control.md R151. -/
def Obligations.JumpThroughARegister : Prop :=
  ∀ base : Reg,
    (∀ w : Word, w.extractLsb' 12 4 = Config.opcodeBits .jmp → w.extractLsb' 6 3 = base.bits → decode w = .jmp base) ∧
    ∀ s : State, exec (.jmp base) s = .next { s with pc := s.reg base }

/-- 43_control.md R152. -/
def Obligations.JsrLinksAndBranches : Prop :=
  ∀ off : BitVec 11,
    (∀ w : Word, w.extractLsb' 12 4 = Config.opcodeBits .jsr → w.getLsbD 11 = true → w.extractLsb' 0 11 = off →
      decode w = .jsr off) ∧
    ∀ s : State, ∃ t, exec (.jsr off) s = .next t ∧ t.reg .r7 = s.pc ∧ t.pc = s.pc + off.signExtend 16 ∧
      SameRegsBut [.r7] s t ∧ t.cond = s.cond ∧ t.mem = s.mem ∧ t.run = s.run ∧ t.kbd = s.kbd ∧ t.output = s.output

/-- 43_control.md R153: R7 is written before BaseR is read, so JSRR R7 falls through. -/
def Obligations.JsrrLinksBeforeItReads : Prop :=
  ∀ base : Reg,
    (∀ w : Word, w.extractLsb' 12 4 = Config.opcodeBits .jsr → w.getLsbD 11 = false → w.extractLsb' 6 3 = base.bits →
      decode w = .jsrr base) ∧
    ∀ s : State, ∃ t, exec (.jsrr base) s = .next t ∧ t.reg .r7 = s.pc ∧
      t.pc = (if base = .r7 then s.pc else s.reg base) ∧
      SameRegsBut [.r7] s t ∧ t.cond = s.cond ∧ t.mem = s.mem ∧ t.run = s.run ∧ t.kbd = s.kbd ∧ t.output = s.output

/-! ## Loads, LEA and stores -/

/-- 44_load_store.md R160. -/
def Obligations.LoadPcRelative : Prop :=
  ∀ (dr : Reg) (off : BitVec 9),
    (∀ w : Word, w.extractLsb' 12 4 = Config.opcodeBits .ld → w.extractLsb' 9 3 = dr.bits → w.extractLsb' 0 9 = off →
      decode w = .ld dr off) ∧
    ∀ s : State, ∃ t, exec (.ld dr off) s = .next t ∧ LoadedFrom dr (s.pc + sext off) s t

/-- 44_load_store.md R161: the pointer's read, then the data's read; each polls if its own address is the status address. -/
def Obligations.LoadIndirect : Prop :=
  ∀ (dr : Reg) (off : BitVec 9),
    (∀ w : Word, w.extractLsb' 12 4 = Config.opcodeBits .ldi → w.extractLsb' 9 3 = dr.bits → w.extractLsb' 0 9 = off →
      decode w = .ldi dr off) ∧
    ∀ s : State, ∃ t, exec (.ldi dr off) s = .next t ∧
      LoadedFrom dr (s.memRead (s.pc + sext off)).1 (s.memRead (s.pc + sext off)).2 t ∧
      SameRegsBut [dr] s t ∧ t.pc = s.pc ∧ t.run = s.run ∧ t.output = s.output ∧
      (s.pc + sext off ≠ Config.kbsrAddr →
        LoadedFrom dr (s.cell (s.pc + sext off)) s t ∧
        (s.cell (s.pc + sext off) ≠ Config.kbsrAddr → WroteResult dr (s.cell (s.cell (s.pc + sext off))) s t)) ∧
      SameCellsBut deviceCells s t

/-- 44_load_store.md R162: BaseR is read before DR is written. -/
def Obligations.LoadBaseOffset : Prop :=
  ∀ (dr base : Reg) (off : BitVec 6),
    (∀ w : Word, w.extractLsb' 12 4 = Config.opcodeBits .ldr → w.extractLsb' 9 3 = dr.bits →
      w.extractLsb' 6 3 = base.bits → w.extractLsb' 0 6 = off → decode w = .ldr dr base off) ∧
    ∀ s : State, ∃ t, exec (.ldr dr base off) s = .next t ∧ LoadedFrom dr (s.reg base + sext off) s t

/-- 44_load_store.md R163: the address itself is the result, memory is not touched, COND is set. -/
def Obligations.LoadEffectiveAddress : Prop :=
  ∀ (dr : Reg) (off : BitVec 9),
    (∀ w : Word, w.extractLsb' 12 4 = Config.opcodeBits .lea → w.extractLsb' 9 3 = dr.bits → w.extractLsb' 0 9 = off →
      decode w = .lea dr off) ∧
    ∀ s : State, ∃ t, exec (.lea dr off) s = .next t ∧ WroteResult dr (s.pc + off.signExtend 16) s t

/-- 44_load_store.md R164. -/
def Obligations.StorePcRelative : Prop :=
  ∀ (sr : Reg) (off : BitVec 9),
    (∀ w : Word, w.extractLsb' 12 4 = Config.opcodeBits .st → w.extractLsb' 9 3 = sr.bits → w.extractLsb' 0 9 = off →
      decode w = .st sr off) ∧
    ∀ s : State, ∃ t, exec (.st sr off) s = .next t ∧ Stored (s.pc + sext off) (s.reg sr) s t

/-- 44_load_store.md R165: the pointer's read, which polls if its address is the status address, then the store, which
never polls. -/
def Obligations.StoreIndirect : Prop :=
  ∀ (sr : Reg) (off : BitVec 9),
    (∀ w : Word, w.extractLsb' 12 4 = Config.opcodeBits .sti → w.extractLsb' 9 3 = sr.bits → w.extractLsb' 0 9 = off →
      decode w = .sti sr off) ∧
    ∀ s : State, ∃ t, exec (.sti sr off) s = .next t ∧
      Stored (s.memRead (s.pc + sext off)).1 (s.reg sr) (s.memRead (s.pc + sext off)).2 t ∧
      t.regs = s.regs ∧ t.pc = s.pc ∧ t.cond = s.cond ∧ t.run = s.run ∧ t.output = s.output ∧
      (s.pc + sext off ≠ Config.kbsrAddr → Stored (s.cell (s.pc + sext off)) (s.reg sr) s t) ∧
      SameCellsBut ((s.memRead (s.pc + sext off)).1 :: deviceCells) s t

/-- 44_load_store.md R166. -/
def Obligations.StoreBaseOffset : Prop :=
  ∀ (sr base : Reg) (off : BitVec 6),
    (∀ w : Word, w.extractLsb' 12 4 = Config.opcodeBits .str → w.extractLsb' 9 3 = sr.bits →
      w.extractLsb' 6 3 = base.bits → w.extractLsb' 0 6 = off → decode w = .str sr base off) ∧
    ∀ s : State, ∃ t, exec (.str sr base off) s = .next t ∧ Stored (s.reg base + sext off) (s.reg sr) s t

/-! ## TRAP -/

/-- GETC with a character in the input (45_trap.md section 2). The flags are the spec's D12 (log 11), the zero extension
its D13 (log 12), R7 untouched its D11 (log 10). -/
def Obligations.GetcTakesOneCharacter : Prop :=
  (∀ w : Word, w.extractLsb' 12 4 = Config.opcodeBits .trap → w.extractLsb' 0 8 = Config.trapVector .getc →
    decode w = .trapGetc) ∧
  ∀ (s : State) (c : Byte) (rest : List Byte), s.kbd.input = c :: rest →
    ∃ t, exec .trapGetc s = .next t ∧ t.reg .r0 = c.setWidth 16 ∧
      t.cond = (if c = 0x00#8 then .zero else .positive) ∧ SameRegsBut [.r0] s t ∧ t.pc = s.pc ∧ t.mem = s.mem ∧
      t.run = s.run ∧ t.kbd = { s.kbd with input := rest } ∧ t.output = s.output

/-- IN with a character in the input (45_trap.md section 2): prompt, then echo. Flags and zero extension as for GETC
(log 10, 11, 12); the prompt is the parameter IN_PROMPT and the echo the spec's D14 (log 14). -/
def Obligations.InPromptsTakesAndEchoes : Prop :=
  (∀ w : Word, w.extractLsb' 12 4 = Config.opcodeBits .trap → w.extractLsb' 0 8 = Config.trapVector .inp →
    decode w = .trapIn) ∧
  ∀ (s : State) (c : Byte) (rest : List Byte), s.kbd.input = c :: rest →
    ∃ t, exec .trapIn s = .next t ∧ t.reg .r0 = c.setWidth 16 ∧
      t.cond = (if c = 0x00#8 then .zero else .positive) ∧ SameRegsBut [.r0] s t ∧ t.pc = s.pc ∧ t.mem = s.mem ∧
      t.run = s.run ∧ t.kbd = { s.kbd with input := rest } ∧ t.output = s.output ++ Config.inPrompt ++ [c]

/-- GETC and IN (45_trap.md section 2) past the end of the input: R0 takes the OPEN parameter INPUT_EOF (10_state.md section
6, D13), COND follows it, IN still prompts and writes one byte. That the model takes the parameter, and that IN writes a
byte there, is its own choice (DESIGN CHOICE, log 13). The prompt is the parameter IN_PROMPT, prompt and echo the spec's
D14 (PRESUMED, log 14), the flags its D12 (log 11), R7 untouched its D11 (log 10). -/
def Obligations.BlockingReadAtTheEndOfInput : Prop :=
  ∀ s : State, s.kbd.input = [] → s.kbd.ended = true →
    (∃ t, exec .trapGetc s = .next t ∧ WroteResult .r0 Config.inputEof s t) ∧
    ∃ t e, exec .trapIn s = .next t ∧
      WroteResult .r0 Config.inputEof { s with output := s.output ++ Config.inPrompt ++ [e] } t

/-- GETC and IN (45_trap.md section 2) with no character and an input that has not ended do not complete: the step "has not
happened" (10_state.md section 6, 93_implementation_defined.md U5; the spec's D24, log 24). -/
def Obligations.BlockingReadWaitsForInput : Prop :=
  ∀ s : State, s.kbd.input = [] → s.kbd.ended = false →
    exec .trapGetc s = .fault .waitingForInput ∧ exec .trapIn s = .fault .waitingForInput

/-- 45_trap.md R184. -/
def Obligations.OutWritesTheLowByteOfR0 : Prop :=
  (∀ w : Word, w.extractLsb' 12 4 = Config.opcodeBits .trap → w.extractLsb' 0 8 = Config.trapVector .out →
    decode w = .trapOut) ∧
  ∀ s : State, exec .trapOut s = .next { s with output := s.output ++ [(s.reg .r0).extractLsb' 0 8] }

/-- PUTS on a terminated string that does not run over the status address (45_trap.md section 2): the low byte of each
Word, and nothing else changes. That the address wraps is the spec's D20 (log 20), R7 untouched its D11 (log 10). -/
def Obligations.PutsWritesATerminatedString : Prop :=
  (∀ w : Word, w.extractLsb' 12 4 = Config.opcodeBits .trap → w.extractLsb' 0 8 = Config.trapVector .puts →
    decode w = .trapPuts) ∧
  ∀ (s : State) (ws : List Word),
    (∀ k, k < ws.length → ws.getD k 0 ≠ 0x0000#16 ∧ s.cell (s.reg .r0 + BitVec.ofNat 16 k) = ws.getD k 0) →
    s.cell (s.reg .r0 + BitVec.ofNat 16 ws.length) = 0x0000#16 →
    (∀ k, k ≤ ws.length → s.reg .r0 + BitVec.ofNat 16 k ≠ Config.kbsrAddr) →
    exec .trapPuts s = .next { s with output := s.output ++ ws.map (fun x => x.extractLsb' 0 8) }

/-- PUTSP on a terminated string that does not run over the status address (45_trap.md section 2): of each Word the low
byte, then the high byte if it is not zero. The wrap and R7 as for PUTS (log 20, log 10). -/
def Obligations.PutspWritesATerminatedString : Prop :=
  (∀ w : Word, w.extractLsb' 12 4 = Config.opcodeBits .trap → w.extractLsb' 0 8 = Config.trapVector .putsp →
    decode w = .trapPutsp) ∧
  ∀ (s : State) (ws : List Word),
    (∀ k, k < ws.length → ws.getD k 0 ≠ 0x0000#16 ∧ s.cell (s.reg .r0 + BitVec.ofNat 16 k) = ws.getD k 0) →
    s.cell (s.reg .r0 + BitVec.ofNat 16 ws.length) = 0x0000#16 →
    (∀ k, k ≤ ws.length → s.reg .r0 + BitVec.ofNat 16 k ≠ Config.kbsrAddr) →
    exec .trapPutsp s = .next
      { s with output := s.output ++ ws.flatMap (fun x =>
          if x.extractLsb' 8 8 = 0x00#8 then [x.extractLsb' 0 8] else [x.extractLsb' 0 8, x.extractLsb' 8 8]) }

/-- PUTS and PUTSP are exactly the spec's unbounded loops (45_trap.md section 2), polls included: the model's bounded loop
cuts none of them short and adds none. That reads go through MemRead is the spec's D20 (log 20). -/
def Obligations.StringRoutinesAreTheSpecsLoops : Prop :=
  ∀ s t : State,
    (exec .trapPuts s = .next t ↔ StringLoop (fun x => [x.extractLsb' 0 8]) (s.reg .r0) s t) ∧
    (exec .trapPutsp s = .next t ↔
      StringLoop (fun x =>
        if x.extractLsb' 8 8 = 0x00#8 then [x.extractLsb' 0 8] else [x.extractLsb' 0 8, x.extractLsb' 8 8])
        (s.reg .r0) s t)

/-- HALT ends the run with status Halted and exit status 0, and only HALT does (41_dispatcher.md, halt()); it appends the
notice and changes nothing else (45_trap.md section 2). That there is a notice to the output and what it holds is the
parameter HALT_NOTICE, the spec's D15 (PRESUMED, log 15), R7 untouched its D11 (log 10). -/
def Obligations.HaltEndsTheRun : Prop :=
  (∀ w : Word, w.extractLsb' 12 4 = Config.opcodeBits .trap → w.extractLsb' 0 8 = Config.trapVector .halt →
    decode w = .trapHalt) ∧
  (∀ s : State, exec .trapHalt s = .next
    { s with output := s.output ++ Config.haltNotice, run := .ended .halted }) ∧
  RunStatus.exitStatus .halted = 0 ∧
  ∀ (i : Instr) (s t : State), s.run = .running → exec i s = .next t → t.run = .ended .halted → i = .trapHalt

/-- A TRAP with an unknown vector ends the run with that vector as its status, and nothing else changes (45_trap.md
section 2, the spec's D16, log 16; the exit status is non-zero, D17, log 17). -/
def Obligations.UnknownTrapIsFatal : Prop :=
  ∀ v : BitVec 8,
    (∀ w : Word, w.extractLsb' 12 4 = Config.opcodeBits .trap → w.extractLsb' 0 8 = v →
      Config.trapRoutineOf v = none → decode w = .trapUnknown v) ∧
    (∀ s : State, exec (.trapUnknown v) s = .next { s with run := .ended (.fatalUnknownTrap v) }) ∧
    RunStatus.exitStatus (.fatalUnknownTrap v) ≠ 0

/-! ## The step -/

/-- 41_dispatcher.md R124, for the two opcode values OPCODE_MAP reserves: pc past the word, the run ended with that opcode
as its status, and nothing else but what the fetch's own poll does. -/
def Obligations.ReservedOpcodeIsFatal : Prop :=
  (∀ s : State,
    exec .reserved8 s = .next { s with run := .ended (.fatalReservedOpcode (Config.opcodeBits .reserved8)) } ∧
    exec .reserved13 s = .next { s with run := .ended (.fatalReservedOpcode (Config.opcodeBits .reserved13)) }) ∧
  (∀ (s : State) (op : BitVec 4), s.run = .running → (s.memRead s.pc).1.extractLsb' 12 4 = op →
    (op = Config.opcodeBits .reserved8 ∨ op = Config.opcodeBits .reserved13) →
      step s = .next { (s.memRead s.pc).2 with pc := s.pc + 1, run := .ended (.fatalReservedOpcode op) } ∧
      (s.pc ≠ Config.kbsrAddr →
        step s = .next { s with pc := s.pc + 1, run := .ended (.fatalReservedOpcode op) })) ∧
  ∀ op, RunStatus.exitStatus (.fatalReservedOpcode op) ≠ 0

/-- 41_dispatcher.md R122: the fetch read with its poll, then the increment, then the handler of the fetched word; after the
step pc is pc0 + 1 unless the handler writes it. -/
def Obligations.StepRunsTheDecodedInstruction : Prop :=
  ∀ s : State, s.run = .running →
    step s = exec (decode (s.memRead s.pc).1) { (s.memRead s.pc).2 with pc := s.pc + 1 } ∧
    (s.pc ≠ Config.kbsrAddr → step s = exec (decode (s.cell s.pc)) { s with pc := s.pc + 1 }) ∧
    ∀ t, step s = .next t → writesPc (decode (s.memRead s.pc).1) = false → t.pc = s.pc + 1

/-- An ended run has no step (10_state.md section 5; the model's fault notRunning, log 25). -/
def Obligations.EndedRunHasNoStep : Prop :=
  ∀ (s : State) (status : RunStatus), s.run = .ended status → step s = .fault .notRunning

/-- 10_state.md R24: pc goes up by one in every step, before the handler runs; only a taken BR, JMP, JSR and JSRR write
it again. -/
def Obligations.PcWrittenOnlyByControlTransfers : Prop :=
  ∀ s t : State, step s = .next t →
    exec (decode (s.memRead s.pc).1) { (s.memRead s.pc).2 with pc := s.pc + 1 } = .next t ∧
    (writesPc (decode (s.memRead s.pc).1) = false → t.pc = s.pc + 1) ∧
    (∀ n z p off, decode (s.memRead s.pc).1 = .br n z p off → branchTaken n z p s.cond = false → t.pc = s.pc + 1) ∧
    (∀ n z p off, decode (s.memRead s.pc).1 = .br n z p off → branchTaken n z p s.cond = true →
      t.pc = s.pc + 1 + off.signExtend 16)

/-- The low nine bits of a word below 0x0200 are a BR with no condition bit: it changes pc only (30_encoding.md, "legal and
do nothing but advance PC", a rule the spec marks as derived). -/
def Obligations.WordsBelow200DoNothing : Prop :=
  ∀ s : State, s.run = .running → (s.memRead s.pc).1.toNat < 0x0200 →
    step s = .next { (s.memRead s.pc).2 with pc := s.pc + 1 }

/-- A store to the cell the next fetch reads is what that step executes (20_memory.md section 6, a rule the spec marks as
derived). -/
def Obligations.FetchSeesTheLatestStore : Prop :=
  ∀ (s : State) (v : Word), s.run = .running → s.pc ≠ Config.kbsrAddr →
    step (s.memWrite s.pc v) = exec (decode v) { (s.memWrite s.pc v) with pc := s.pc + 1 }

/-! ## Rules about the whole machine -/

/-- 10_state.md section 1, the column "writes" of the register table: every other register is unchanged. -/
def Obligations.OnlyTheListedRegistersAreWritten : Prop :=
  ∀ (i : Instr) (s t : State), exec i s = .next t → SameRegsBut (writtenRegs i) s t

/-- 10_state.md section 3: COND is set from the register an instruction of the list just wrote, and no other instruction
changes it. That GETC and IN are in the list is the spec's D12 (log 11). -/
def Obligations.CondFollowsTheListedWrites : Prop :=
  ∀ (i : Instr) (s t : State), exec i s = .next t →
    (∀ r, flagReg i = some r → t.cond = condOf (t.reg r)) ∧ (flagReg i = none → t.cond = s.cond)

/-- Frame of memory over all instructions: a store changes the cell it stores to, a poll the two device cells, nothing else
changes a cell (10_state.md section 4; 20_memory.md sections 1 and 2). -/
def Obligations.CellsChangeOnlyByStoresAndPolls : Prop :=
  ∀ (i : Instr) (s t : State), exec i s = .next t →
    (∀ a, storeAddress i s = some a → SameCellsBut (a :: deviceCells) s t) ∧
    (storeAddress i s = none → SameCellsBut deviceCells s t) ∧
    (i ≠ .trapPuts → i ≠ .trapPutsp → Config.kbsrAddr ∉ readAddresses i s →
      (∀ a, storeAddress i s = some a → SameCellsBut [a] s t) ∧ (storeAddress i s = none → t.mem = s.mem))

/-- Input is consumed from the front, output is appended, and only the writing trap routines write it (10_state.md section
6; 45_trap.md section 3). -/
def Obligations.InputFromTheFrontOutputAtTheEnd : Prop :=
  ∀ s t : State, step s = .next t →
    (∃ taken, s.kbd.input = taken ++ t.kbd.input) ∧
    ∃ bytes, t.output = s.output ++ bytes ∧
      (bytes ≠ [] → decode (s.memRead s.pc).1 ∈ [Instr.trapOut, .trapPuts, .trapIn, .trapPutsp, .trapHalt])

/-- The end of a run is reached in exactly three ways (41_dispatcher.md section "The end of a run", the spec's D25,
log 25). -/
def Obligations.RunEndsInExactlyThreeWays : Prop :=
  ∀ s t : State, step s = .next t →
    (t.run = .ended .halted ↔ decode (s.memRead s.pc).1 = .trapHalt) ∧
    (∀ op, t.run = .ended (.fatalReservedOpcode op) ↔
      (decode (s.memRead s.pc).1 = .reserved8 ∧ op = Config.opcodeBits .reserved8) ∨
      (decode (s.memRead s.pc).1 = .reserved13 ∧ op = Config.opcodeBits .reserved13)) ∧
    ∀ v, t.run = .ended (.fatalUnknownTrap v) ↔ decode (s.memRead s.pc).1 = .trapUnknown v

/-- Every instruction completes from every state, PUTS and PUTSP on any memory among them, but GETC and IN that wait for
input (60_exceptions.md section 1: nothing is raised for any memory address, alignment or overflow). That GETC and IN
complete at the end of the input is the model's choice (DESIGN CHOICE, log 13), and that PUTS and PUTSP always end rests on
the finite input of a state (DEDUCED, log 32; DESIGN CHOICE, log 30). -/
def Obligations.EveryInstructionCompletes : Prop :=
  ∀ (i : Instr) (s : State),
    (i = .trapGetc ∨ i = .trapIn → s.kbd.input ≠ [] ∨ s.kbd.ended = true) → ∃ t, exec i s = .next t

/-- The invariant of 10_state.md's derived rule on reachable states, kept by every step from every state that has it:
memory in its canonical form (log 31), a legal run status. -/
def Obligations.StepKeepsTheInvariant : Prop :=
  ∀ s t : State, s.Inv → step s = .next t → t.Inv

/-- Reset meets the invariant. -/
def Obligations.ResetMeetsTheInvariant : Prop := State.reset.Inv

/-! ## Memory and the device pair -/

/-- A read of the status address (20_memory.md section 1): what the poll finds decides the two device cells; no other cell
changes. Setting bit 15 and keeping the rest is the spec's D10 (log 9), the zero extension D13 (log 12). -/
def Obligations.StatusReadPolls : Prop :=
  ∀ s : State,
    (∀ c k, s.kbd.poll = (some c, k) → ∃ t, s.memRead Config.kbsrAddr = (s.cell Config.kbsrAddr ||| 0x8000#16, t) ∧
      t.cell Config.kbsrAddr = s.cell Config.kbsrAddr ||| 0x8000#16 ∧ t.cell Config.kbdrAddr = c.setWidth 16 ∧
      SameCellsBut deviceCells s t ∧ t.kbd = k ∧ t.regs = s.regs ∧ t.pc = s.pc ∧ t.cond = s.cond ∧ t.run = s.run ∧
      t.output = s.output) ∧
    ∀ k, s.kbd.poll = (none, k) → ∃ t, s.memRead Config.kbsrAddr = (0x0000#16, t) ∧
      SameCellsBut [Config.kbsrAddr] s t ∧ t.cell Config.kbsrAddr = 0x0000#16 ∧ t.kbd = k ∧ t.regs = s.regs ∧
      t.pc = s.pc ∧ t.cond = s.cond ∧ t.run = s.run ∧ t.output = s.output

/-- 20_memory.md R53: every read of the status address polls, a read of the data address, as of any other, never. -/
def Obligations.OtherReadsHaveNoSideEffect : Prop :=
  ∀ s : State, s.memRead Config.kbdrAddr = (s.cell Config.kbdrAddr, s) ∧
    (s.memRead Config.kbsrAddr).2.kbd = (s.kbd.poll).2 ∧
    ∀ a, a ≠ Config.kbsrAddr → s.memRead a = (s.cell a, s)

/-- 20_memory.md R54: a store to any address, the device cells among them, replaces that cell and does nothing else. -/
def Obligations.WriteIsAPlainStore : Prop :=
  ∀ (a v : Word) (s : State), Stored a v s (s.memWrite a v)

/-- 20_memory.md R59. -/
def Obligations.StatusReadTwice : Prop :=
  ∀ s : State,
    ((s.kbd.poll).1 = none → ((s.memRead Config.kbsrAddr).2.kbd.poll).1 = none →
      (s.memRead Config.kbsrAddr).1 = 0x0000#16 ∧
      ((s.memRead Config.kbsrAddr).2.memRead Config.kbsrAddr).1 = 0x0000#16) ∧
    ((s.kbd.poll).1 ≠ none → ((s.memRead Config.kbsrAddr).2.kbd.poll).1 ≠ none →
      (s.memRead Config.kbsrAddr).1.getLsbD 15 = true ∧
      ((s.memRead Config.kbsrAddr).2.memRead Config.kbsrAddr).1.getLsbD 15 = true ∧
      ∃ c d, s.kbd.input = c :: d :: ((s.memRead Config.kbsrAddr).2.memRead Config.kbsrAddr).2.kbd.input)

/-- kbd_poll (10_state.md section 6, the spec's D22, log 22): a yes takes the front character, a no takes nothing, and the
listed answer decides, but that there is nothing to take from an empty input. -/
def Obligations.PollAnswerIsTheEnvironments : Prop :=
  ∀ k : Keyboard,
    (∀ c k', k.poll = (some c, k') → k.input = c :: k'.input) ∧
    (∀ k', k.poll = (none, k') → k'.input = k.input) ∧
    ∀ b bs, k.answers = b :: bs → (k.poll).1 = (if b then k.input.head? else none) ∧ (k.poll).2.answers = bs

/-- Two memories in canonical form that read alike are equal data (the model's form of memory, log 31). -/
def Obligations.MemoriesThatReadAlikeAreEqual : Prop :=
  ∀ m m' : Memory, m.wf = true → m'.wf = true → (∀ a, m.read a = m'.read a) → m = m'

/-! ## Boot and reset -/

/-- 70_reset_and_hazards.md R248: the complete payload Words, up to the capacity, at rising addresses from the origin on;
no other cell and nothing else changes. -/
def Obligations.LoaderWritesThePayload : Prop :=
  ∀ (b0 b1 : Byte) (payload : List Byte) (s : State),
    ∃ t, load (b0 :: b1 :: payload) s = .ok t ∧
      (∀ k, k < min (payload.length / 2) (capacity Config.loaderCapAtOrigin0 (b0 ++ b1)) →
        (b0 ++ b1).toNat + k ≤ 0xFFFF ∧
        t.cell ((b0 ++ b1) + BitVec.ofNat 16 k) = payload.getD (2 * k) 0 ++ payload.getD (2 * k + 1) 0) ∧
      (∀ a, (∀ k, k < min (payload.length / 2) (capacity Config.loaderCapAtOrigin0 (b0 ++ b1)) →
        a ≠ (b0 ++ b1) + BitVec.ofNat 16 k) → t.cell a = s.cell a) ∧
      t.regs = s.regs ∧ t.pc = s.pc ∧ t.cond = s.cond ∧ t.run = s.run ∧ t.kbd = s.kbd ∧ t.output = s.output

/-- The loader's capacity and failures (70_reset_and_hazards.md section 2): 65,536 - origin, at origin 0 the parameter (the
spec's D18, log 18); a stream of fewer than two bytes (D19, log 19) or no stream is a launch that does not happen, with an
exit status of which only non-zero is known (log 36). -/
def Obligations.LoaderCapacityAndFailures : Prop :=
  (∀ (cap0 : Nat) (origin : Word), capacity cap0 origin = if origin = 0x0000#16 then cap0 else 65536 - origin.toNat) ∧
  (∀ (image : List Byte) (s : State), image.length < 2 → load image s = .error .noOrigin) ∧
  boot none = .error .unreadable ∧
  (∀ f : LoadFailure, f.exitStatus ≠ 0) ∧
  ∀ image : List Byte, boot (some image) = load image State.reset

/-- The state after reset (10_state.md section 7): every value is the spec's own decision D4 to D7 (log 4 to 7), but the
input collaborator's fields, which are the model's choice (log 22, log 30) and of which nothing is said here. -/
def Obligations.ResetValues : Prop :=
  (∀ r, State.reset.reg r = 0x0000#16) ∧ State.reset.pc = 0x3000#16 ∧ State.reset.cond = .zero ∧
  (∀ a, State.reset.cell a = 0x0000#16) ∧ State.reset.run = .running ∧ State.reset.output = []
end

