-- ==== Sys2Proof/Laws/Decode.lean ====
section
/-! SUPPORT. The tables of the encoding read both ways, and where each field of an encoded word lies. -/

namespace Sys2Proof

@[simp] theorem Reg.ofBits_bits (r : Reg) : Reg.ofBits r.bits = r := by cases r <;> rfl

@[simp] theorem Reg.bits_ofBits (b : BitVec 3) : (Reg.ofBits b).bits = b := by revert b; decide

@[simp] theorem Config.opcodeOf_bits (o : Opcode) : Config.opcodeOf (Config.opcodeBits o) = o := by cases o <;> rfl

@[simp] theorem Config.opcodeBits_of (b : BitVec 4) : Config.opcodeBits (Config.opcodeOf b) = b := by
  revert b; decide

@[simp] theorem Config.trapRoutineOf_vector (r : TrapRoutine) :
    Config.trapRoutineOf (Config.trapVector r) = some r := by cases r <;> rfl

/-! ## Fields of the words encode builds -/

@[simp] theorem field_opcode (o : Opcode) (x : BitVec 12) : field 12 4 (opWord o x) = Config.opcodeBits o := by
  unfold field opWord
  rw [BitVec.extractLsb'_append_eq_left]

theorem field_operands (o : Opcode) (x : BitVec 12) {lo w : Nat} (h : lo + w ≤ 12) :
    field lo w (opWord o x) = x.extractLsb' lo w := by
  unfold field opWord
  rw [BitVec.extractLsb'_append_eq_of_add_le h]

theorem bitAt_operands (o : Opcode) (x : BitVec 12) {i : Nat} (h : i < 12) : bitAt i (opWord o x) = x.getLsbD i := by
  unfold bitAt opWord
  rw [BitVec.getLsbD_append]; simp [h]

theorem regAt_of_field {w : Word} {lo : Nat} {r : Reg} (h : w.extractLsb' lo 3 = r.bits) : regAt lo w = r := by
  simp [regAt, field, h]

@[simp] theorem regOver_reg (r : Reg) (x : BitVec 9) : (regOver r x).extractLsb' 9 3 = r.bits := by
  unfold regOver; rw [BitVec.extractLsb'_append_eq_left]

theorem regOver_low (r : Reg) (x : BitVec 9) {lo w : Nat} (h : lo + w ≤ 9) :
    (regOver r x).extractLsb' lo w = x.extractLsb' lo w := by
  unfold regOver; rw [BitVec.extractLsb'_append_eq_of_add_le h]

@[simp] theorem regMid_reg (r : Reg) (x : BitVec 6) : (regMid r x).extractLsb' 6 3 = r.bits := by
  unfold regMid; rw [BitVec.extractLsb'_append_eq_left]

theorem regMid_low (r : Reg) (x : BitVec 6) {lo w : Nat} (h : lo + w ≤ 6) :
    (regMid r x).extractLsb' lo w = x.extractLsb' lo w := by
  unfold regMid; rw [BitVec.extractLsb'_append_eq_of_add_le h]

@[simp] theorem regMode_bit (r : Reg) : (regMode r)[5] = false := by cases r <;> rfl

@[simp] theorem regMode_reg (r : Reg) : (regMode r).extractLsb' 0 3 = r.bits := by
  unfold regMode; rw [BitVec.extractLsb'_append_eq_right]

@[simp] theorem immMode_bit (x : BitVec 5) : (immMode x)[5] = true := by
  unfold immMode; rw [BitVec.getElem_append]; simp

@[simp] theorem immMode_imm (x : BitVec 5) : (immMode x).extractLsb' 0 5 = x := by
  unfold immMode; rw [BitVec.extractLsb'_append_eq_right]

@[simp] theorem nzpOver_n (n z p : Bool) (x : BitVec 9) : (nzpOver n z p x)[11] = n := by
  unfold nzpOver; rw [BitVec.getElem_append]; cases n <;> cases z <;> cases p <;> rfl

@[simp] theorem nzpOver_z (n z p : Bool) (x : BitVec 9) : (nzpOver n z p x)[10] = z := by
  unfold nzpOver; rw [BitVec.getElem_append]; cases n <;> cases z <;> cases p <;> rfl

@[simp] theorem nzpOver_p (n z p : Bool) (x : BitVec 9) : (nzpOver n z p x)[9] = p := by
  unfold nzpOver; rw [BitVec.getElem_append]; cases n <;> cases z <;> cases p <;> rfl

@[simp] theorem nzpOver_offset (n z p : Bool) (x : BitVec 9) : (nzpOver n z p x).extractLsb' 0 9 = x := by
  unfold nzpOver
  rw [BitVec.extractLsb'_append_eq_right]

@[simp] theorem trapOver_vector (v : BitVec 8) : (trapOver v).extractLsb' 0 8 = v := by
  unfold trapOver; rw [BitVec.extractLsb'_append_eq_right]

theorem regOver_bit (r : Reg) (x : BitVec 9) {i : Nat} (h : i < 9) : (regOver r x)[i] = x[i] := by
  unfold regOver; rw [BitVec.getElem_append]; simp [h]

theorem regMid_bit (r : Reg) (x : BitVec 6) {i : Nat} (h : i < 6) : (regMid r x)[i] = x[i] := by
  unfold regMid; rw [BitVec.getElem_append]; simp [h]

@[simp] theorem jsr_flag (x : BitVec 11) : (1#1 ++ x)[11] = true := by
  rw [BitVec.getElem_append]; simp

@[simp] theorem jsr_offset (x : BitVec 11) : (1#1 ++ x).extractLsb' 0 11 = x := by
  rw [BitVec.extractLsb'_append_eq_right]

@[simp] theorem jsrr_flag (x : BitVec 9) : (0b000#3 ++ x)[11] = false := by
  rw [BitVec.getElem_append]; simp

@[simp] theorem jsrr_base (b : Reg) (x : BitVec 6) : (0b000#3 ++ regMid b x).extractLsb' 6 3 = b.bits := by
  rw [BitVec.extractLsb'_append_eq_of_add_le (by omega), regMid_reg]

/-! ## Sign extension -/

/-- sext_N is two's-complement sign extension. -/
theorem sext_eq_signExtend {n : Nat} (f : BitVec n) : sext f = f.signExtend 16 := by
  apply BitVec.eq_of_getLsbD_eq
  intro i hi
  rw [BitVec.getLsbD_signExtend]
  by_cases h : f.msb
  · simp only [sext, zext, h, if_true, BitVec.getLsbD_or, BitVec.getLsbD_setWidth, BitVec.getLsbD_shiftLeft]
    have : (0xFFFF#16).getLsbD (i - n) = true := by
      have : ∀ j, j < 16 → (0xFFFF#16).getLsbD j = true := by decide
      exact this _ (by omega)
    rw [this]
    by_cases hn : i < n
    · simp [hi, hn]
    · simp [hi, hn]
  · simp only [sext, zext, h]
    by_cases hn : i < n
    · simp [hi, hn]
    · simp [hn, BitVec.getLsbD_of_ge _ _ (Nat.le_of_not_lt hn)]

end Sys2Proof
end

