-- ==== Sys2Proof/Laws/State.lean ====
section
/-! SUPPORT. One lemma per field per update of the state, and what each plain operation leaves alone. -/

namespace Sys2Proof.Machine

/-! ## The seven updates -/

@[simp] theorem State.setRegs_regs (v : RegFile) (s : State) : (s.setRegs v).regs = v := rfl
@[simp] theorem State.setRegs_pc (v : RegFile) (s : State) : (s.setRegs v).pc = s.pc := rfl
@[simp] theorem State.setRegs_cond (v : RegFile) (s : State) : (s.setRegs v).cond = s.cond := rfl
@[simp] theorem State.setRegs_mem (v : RegFile) (s : State) : (s.setRegs v).mem = s.mem := rfl
@[simp] theorem State.setRegs_run (v : RegFile) (s : State) : (s.setRegs v).run = s.run := rfl
@[simp] theorem State.setRegs_kbd (v : RegFile) (s : State) : (s.setRegs v).kbd = s.kbd := rfl
@[simp] theorem State.setRegs_output (v : RegFile) (s : State) : (s.setRegs v).output = s.output := rfl

@[simp] theorem State.setPc_regs (v : Word) (s : State) : (s.setPc v).regs = s.regs := rfl
@[simp] theorem State.setPc_pc (v : Word) (s : State) : (s.setPc v).pc = v := rfl
@[simp] theorem State.setPc_cond (v : Word) (s : State) : (s.setPc v).cond = s.cond := rfl
@[simp] theorem State.setPc_mem (v : Word) (s : State) : (s.setPc v).mem = s.mem := rfl
@[simp] theorem State.setPc_run (v : Word) (s : State) : (s.setPc v).run = s.run := rfl
@[simp] theorem State.setPc_kbd (v : Word) (s : State) : (s.setPc v).kbd = s.kbd := rfl
@[simp] theorem State.setPc_output (v : Word) (s : State) : (s.setPc v).output = s.output := rfl

@[simp] theorem State.setCond_regs (v : Cond) (s : State) : (s.setCond v).regs = s.regs := rfl
@[simp] theorem State.setCond_pc (v : Cond) (s : State) : (s.setCond v).pc = s.pc := rfl
@[simp] theorem State.setCond_cond (v : Cond) (s : State) : (s.setCond v).cond = v := rfl
@[simp] theorem State.setCond_mem (v : Cond) (s : State) : (s.setCond v).mem = s.mem := rfl
@[simp] theorem State.setCond_run (v : Cond) (s : State) : (s.setCond v).run = s.run := rfl
@[simp] theorem State.setCond_kbd (v : Cond) (s : State) : (s.setCond v).kbd = s.kbd := rfl
@[simp] theorem State.setCond_output (v : Cond) (s : State) : (s.setCond v).output = s.output := rfl

@[simp] theorem State.setMem_regs (v : Memory) (s : State) : (s.setMem v).regs = s.regs := rfl
@[simp] theorem State.setMem_pc (v : Memory) (s : State) : (s.setMem v).pc = s.pc := rfl
@[simp] theorem State.setMem_cond (v : Memory) (s : State) : (s.setMem v).cond = s.cond := rfl
@[simp] theorem State.setMem_mem (v : Memory) (s : State) : (s.setMem v).mem = v := rfl
@[simp] theorem State.setMem_run (v : Memory) (s : State) : (s.setMem v).run = s.run := rfl
@[simp] theorem State.setMem_kbd (v : Memory) (s : State) : (s.setMem v).kbd = s.kbd := rfl
@[simp] theorem State.setMem_output (v : Memory) (s : State) : (s.setMem v).output = s.output := rfl

@[simp] theorem State.setRun_regs (v : RunState) (s : State) : (s.setRun v).regs = s.regs := rfl
@[simp] theorem State.setRun_pc (v : RunState) (s : State) : (s.setRun v).pc = s.pc := rfl
@[simp] theorem State.setRun_cond (v : RunState) (s : State) : (s.setRun v).cond = s.cond := rfl
@[simp] theorem State.setRun_mem (v : RunState) (s : State) : (s.setRun v).mem = s.mem := rfl
@[simp] theorem State.setRun_run (v : RunState) (s : State) : (s.setRun v).run = v := rfl
@[simp] theorem State.setRun_kbd (v : RunState) (s : State) : (s.setRun v).kbd = s.kbd := rfl
@[simp] theorem State.setRun_output (v : RunState) (s : State) : (s.setRun v).output = s.output := rfl

@[simp] theorem State.setKbd_regs (v : Keyboard) (s : State) : (s.setKbd v).regs = s.regs := rfl
@[simp] theorem State.setKbd_pc (v : Keyboard) (s : State) : (s.setKbd v).pc = s.pc := rfl
@[simp] theorem State.setKbd_cond (v : Keyboard) (s : State) : (s.setKbd v).cond = s.cond := rfl
@[simp] theorem State.setKbd_mem (v : Keyboard) (s : State) : (s.setKbd v).mem = s.mem := rfl
@[simp] theorem State.setKbd_run (v : Keyboard) (s : State) : (s.setKbd v).run = s.run := rfl
@[simp] theorem State.setKbd_kbd (v : Keyboard) (s : State) : (s.setKbd v).kbd = v := rfl
@[simp] theorem State.setKbd_output (v : Keyboard) (s : State) : (s.setKbd v).output = s.output := rfl

@[simp] theorem State.setOutput_regs (v : List Byte) (s : State) : (s.setOutput v).regs = s.regs := rfl
@[simp] theorem State.setOutput_pc (v : List Byte) (s : State) : (s.setOutput v).pc = s.pc := rfl
@[simp] theorem State.setOutput_cond (v : List Byte) (s : State) : (s.setOutput v).cond = s.cond := rfl
@[simp] theorem State.setOutput_mem (v : List Byte) (s : State) : (s.setOutput v).mem = s.mem := rfl
@[simp] theorem State.setOutput_run (v : List Byte) (s : State) : (s.setOutput v).run = s.run := rfl
@[simp] theorem State.setOutput_kbd (v : List Byte) (s : State) : (s.setOutput v).kbd = s.kbd := rfl
@[simp] theorem State.setOutput_output (v : List Byte) (s : State) : (s.setOutput v).output = v := rfl

/-! ## A register write -/

@[simp] theorem State.setReg_pc (i : Reg) (v : Word) (s : State) : (s.setReg i v).pc = s.pc := rfl
@[simp] theorem State.setReg_cond (i : Reg) (v : Word) (s : State) : (s.setReg i v).cond = s.cond := rfl
@[simp] theorem State.setReg_mem (i : Reg) (v : Word) (s : State) : (s.setReg i v).mem = s.mem := rfl
@[simp] theorem State.setReg_run (i : Reg) (v : Word) (s : State) : (s.setReg i v).run = s.run := rfl
@[simp] theorem State.setReg_kbd (i : Reg) (v : Word) (s : State) : (s.setReg i v).kbd = s.kbd := rfl
@[simp] theorem State.setReg_output (i : Reg) (v : Word) (s : State) : (s.setReg i v).output = s.output := rfl

/-! ## The flag update -/

@[simp] theorem State.setcc_regs (i : Reg) (s : State) : (s.setcc i).regs = s.regs := rfl
@[simp] theorem State.setcc_pc (i : Reg) (s : State) : (s.setcc i).pc = s.pc := rfl
@[simp] theorem State.setcc_mem (i : Reg) (s : State) : (s.setcc i).mem = s.mem := rfl
@[simp] theorem State.setcc_run (i : Reg) (s : State) : (s.setcc i).run = s.run := rfl
@[simp] theorem State.setcc_kbd (i : Reg) (s : State) : (s.setcc i).kbd = s.kbd := rfl
@[simp] theorem State.setcc_output (i : Reg) (s : State) : (s.setcc i).output = s.output := rfl

/-! ## A result with its flags -/

@[simp] theorem State.writeResult_pc (i : Reg) (v : Word) (s : State) : (s.writeResult i v).pc = s.pc := rfl
@[simp] theorem State.writeResult_mem (i : Reg) (v : Word) (s : State) : (s.writeResult i v).mem = s.mem := rfl
@[simp] theorem State.writeResult_run (i : Reg) (v : Word) (s : State) : (s.writeResult i v).run = s.run := rfl
@[simp] theorem State.writeResult_kbd (i : Reg) (v : Word) (s : State) : (s.writeResult i v).kbd = s.kbd := rfl
@[simp] theorem State.writeResult_output (i : Reg) (v : Word) (s : State) : (s.writeResult i v).output = s.output := rfl

/-! ## A raw cell write -/

@[simp] theorem State.setCell_regs (a v : Word) (s : State) : (s.setCell a v).regs = s.regs := rfl
@[simp] theorem State.setCell_pc (a v : Word) (s : State) : (s.setCell a v).pc = s.pc := rfl
@[simp] theorem State.setCell_cond (a v : Word) (s : State) : (s.setCell a v).cond = s.cond := rfl
@[simp] theorem State.setCell_run (a v : Word) (s : State) : (s.setCell a v).run = s.run := rfl
@[simp] theorem State.setCell_kbd (a v : Word) (s : State) : (s.setCell a v).kbd = s.kbd := rfl
@[simp] theorem State.setCell_output (a v : Word) (s : State) : (s.setCell a v).output = s.output := rfl

/-! ## A store -/

@[simp] theorem State.memWrite_regs (a v : Word) (s : State) : (s.memWrite a v).regs = s.regs := rfl
@[simp] theorem State.memWrite_pc (a v : Word) (s : State) : (s.memWrite a v).pc = s.pc := rfl
@[simp] theorem State.memWrite_cond (a v : Word) (s : State) : (s.memWrite a v).cond = s.cond := rfl
@[simp] theorem State.memWrite_run (a v : Word) (s : State) : (s.memWrite a v).run = s.run := rfl
@[simp] theorem State.memWrite_kbd (a v : Word) (s : State) : (s.memWrite a v).kbd = s.kbd := rfl
@[simp] theorem State.memWrite_output (a v : Word) (s : State) : (s.memWrite a v).output = s.output := rfl

/-! ## Output bytes -/

@[simp] theorem State.conPuts_regs (bs : List Byte) (s : State) : (s.conPuts bs).regs = s.regs := rfl
@[simp] theorem State.conPuts_pc (bs : List Byte) (s : State) : (s.conPuts bs).pc = s.pc := rfl
@[simp] theorem State.conPuts_cond (bs : List Byte) (s : State) : (s.conPuts bs).cond = s.cond := rfl
@[simp] theorem State.conPuts_mem (bs : List Byte) (s : State) : (s.conPuts bs).mem = s.mem := rfl
@[simp] theorem State.conPuts_run (bs : List Byte) (s : State) : (s.conPuts bs).run = s.run := rfl
@[simp] theorem State.conPuts_kbd (bs : List Byte) (s : State) : (s.conPuts bs).kbd = s.kbd := rfl

/-! ## The end of a run -/

@[simp] theorem State.raise_regs (e : Exception) (s : State) : (s.raise e).regs = s.regs := rfl
@[simp] theorem State.raise_pc (e : Exception) (s : State) : (s.raise e).pc = s.pc := rfl
@[simp] theorem State.raise_cond (e : Exception) (s : State) : (s.raise e).cond = s.cond := rfl
@[simp] theorem State.raise_mem (e : Exception) (s : State) : (s.raise e).mem = s.mem := rfl
@[simp] theorem State.raise_kbd (e : Exception) (s : State) : (s.raise e).kbd = s.kbd := rfl
@[simp] theorem State.raise_output (e : Exception) (s : State) : (s.raise e).output = s.output := rfl

/-! ## HALT -/

@[simp] theorem State.halt_regs (s : State) : (s.halt).regs = s.regs := rfl
@[simp] theorem State.halt_pc (s : State) : (s.halt).pc = s.pc := rfl
@[simp] theorem State.halt_cond (s : State) : (s.halt).cond = s.cond := rfl
@[simp] theorem State.halt_mem (s : State) : (s.halt).mem = s.mem := rfl
@[simp] theorem State.halt_kbd (s : State) : (s.halt).kbd = s.kbd := rfl
@[simp] theorem State.halt_output (s : State) : (s.halt).output = s.output := rfl

@[simp] theorem State.raise_run (e : Exception) (s : State) : (s.raise e).run = .ended e.status := rfl
@[simp] theorem State.halt_run (s : State) : s.halt.run = .ended .halted := rfl
@[simp] theorem State.conPuts_output (bs : List Byte) (s : State) : (s.conPuts bs).output = s.output ++ bs := rfl
@[simp] theorem State.conPut_eq (b : Byte) (s : State) : s.conPut b = s.conPuts [b] := rfl
@[simp] theorem State.conFlush_eq (s : State) : s.conFlush = s := rfl

/-! ## What is observable -/

@[simp] theorem State.observe_output (s : State) : s.observe.output = s.output := rfl
@[simp] theorem State.observe_run (s : State) : s.observe.run = s.run := rfl
@[simp] theorem State.observe_regs (s : State) : s.observe.regs = s.regs := rfl
@[simp] theorem State.observe_pc (s : State) : s.observe.pc = s.pc := rfl
@[simp] theorem State.observe_cond (s : State) : s.observe.cond = s.cond := rfl
@[simp] theorem State.observe_mem (s : State) : s.observe.mem = s.mem := rfl

/-! ## Registers -/

@[simp] theorem RegFile.get_set_same (f : RegFile) (i : Reg) (v : Word) : (f.set i v).get i = v := by
  cases i <;> rfl

theorem RegFile.get_set_other (f : RegFile) (i j : Reg) (v : Word) (h : j ≠ i) : (f.set i v).get j = f.get j := by
  cases i <;> cases j <;> first | rfl | exact absurd rfl h

@[simp] theorem State.setReg_reg_same (i : Reg) (v : Word) (s : State) : (s.setReg i v).reg i = v :=
  RegFile.get_set_same s.regs i v

theorem State.setReg_reg_other (i j : Reg) (v : Word) (s : State) (h : j ≠ i) : (s.setReg i v).reg j = s.reg j :=
  RegFile.get_set_other s.regs i j v h

/-- A register is unchanged by whatever leaves the register file unchanged. -/
theorem State.reg_of_regs {s t : State} (h : t.regs = s.regs) (i : Reg) : t.reg i = s.reg i :=
  congrArg (fun f => f.get i) h

@[simp] theorem State.writeResult_reg_same (i : Reg) (v : Word) (s : State) : (s.writeResult i v).reg i = v :=
  State.setReg_reg_same i v s

theorem State.writeResult_reg_other (i j : Reg) (v : Word) (s : State) (h : j ≠ i) :
    (s.writeResult i v).reg j = s.reg j :=
  State.setReg_reg_other i j v s h

@[simp] theorem State.writeResult_cond (i : Reg) (v : Word) (s : State) : (s.writeResult i v).cond = condOf v := by
  simp [State.writeResult, State.setcc]

/-! ## TRAP's entry and the character result at the parameters' values -/

@[simp] theorem State.trapEntry_default (s : State) : s.trapEntry Config.trapSavesR7 = s := rfl

@[simp] theorem State.takeChar_default (c : CharRead) (s : State) :
    s.takeChar Config.trapInputUpdatesFlags c = s.writeResult .r0 c.toWord := rfl

end Sys2Proof.Machine
end

