-- ==== Sys2Proof/Laws/Memory.lean ====
section
/-! SUPPORT. The laws of memory: a read after a write, and the canonical form, which every operation keeps. -/

namespace Sys2Proof.Machine

/-! ## Read after write -/

theorem readCells_insertCell (a b : Nat) (v : Word) (l : List Cell) :
    readCells (insertCell a v l) b = if b = a then v else readCells l b := by
  induction l with
  | nil => simp [insertCell, readCells, eq_comm]
  | cons c rest ih =>
    obtain ⟨k, w⟩ := c
    simp only [insertCell]
    split
    · simp only [readCells, eq_comm (a := a)]
    · split
      · rename_i _ h
        subst h
        simp only [readCells, eq_comm (a := a)]
        split <;> rfl
      · rename_i _ h
        simp only [readCells, ih]
        by_cases hb : b = a
        · subst hb; simp [Ne.symm h]
        · simp [hb]

theorem readCells_eraseCell (a b : Nat) (l : List Cell) :
    readCells (eraseCell a l) b = if b = a then Config.memInit else readCells l b := by
  induction l with
  | nil => simp [eraseCell, readCells]
  | cons c rest ih =>
    obtain ⟨k, w⟩ := c
    simp only [eraseCell]
    split
    · rename_i h
      subst h
      rw [ih]
      by_cases hb : b = k
      · simp [hb]
      · simp [hb, readCells, Ne.symm hb]
    · rename_i h
      simp only [readCells, ih]
      by_cases hb : b = a
      · subst hb; simp [h]
      · simp [hb]

/-- A write gives the written Word at its own address and leaves every other address alone. -/
theorem Memory.read_write (m : Memory) (a b v : Word) : (m.write a v).read b = if b = a then v else m.read b := by
  simp only [Memory.read, Memory.write]
  by_cases hv : v = Config.memInit
  · simp only [hv, if_true, readCells_eraseCell, BitVec.toNat_inj]
  · simp only [hv, if_false, readCells_insertCell, BitVec.toNat_inj]

@[simp] theorem State.setCell_cell_same (a v : Word) (s : State) : (s.setCell a v).cell a = v := by
  simp [State.cell, State.setCell, Memory.read_write]

theorem State.setCell_cell_other (a b v : Word) (s : State) (h : b ≠ a) : (s.setCell a v).cell b = s.cell b := by
  simp [State.cell, State.setCell, Memory.read_write, h]

/-- A cell is unchanged by whatever leaves memory unchanged. -/
theorem State.cell_of_mem {s t : State} (h : t.mem = s.mem) (a : Word) : t.cell a = s.cell a :=
  congrArg (fun m => m.read a) h

/-! ## The canonical form -/

theorem cellsFrom_cons (low k : Nat) (w : Word) (l : List Cell) :
    cellsFrom low ((k, w) :: l) = true ↔
      low ≤ k ∧ k < Config.memWords ∧ w ≠ Config.memInit ∧ cellsFrom (k + 1) l = true := by
  simp [cellsFrom, and_assoc]

theorem cellsFrom_mono {low low' : Nat} (h : low ≤ low') {l : List Cell} (hl : cellsFrom low' l = true) :
    cellsFrom low l = true := by
  cases l with
  | nil => rfl
  | cons c rest =>
    obtain ⟨k, w⟩ := c
    rw [cellsFrom_cons] at hl ⊢
    exact ⟨h.trans hl.1, hl.2⟩

theorem cellsFrom_insertCell {low a : Nat} {v : Word} (hlow : low ≤ a) (ha : a < Config.memWords)
    (hv : v ≠ Config.memInit) {l : List Cell} (hl : cellsFrom low l = true) :
    cellsFrom low (insertCell a v l) = true := by
  induction l generalizing low with
  | nil => simp [insertCell, cellsFrom, hlow, ha, hv]
  | cons c rest ih =>
    obtain ⟨k, w⟩ := c
    rw [cellsFrom_cons] at hl
    simp only [insertCell]
    split
    · rw [cellsFrom_cons, cellsFrom_cons]
      exact ⟨hlow, ha, hv, by omega, hl.2⟩
    · split
      · rw [cellsFrom_cons]
        rename_i _ h
        subst h
        exact ⟨hlow, ha, hv, hl.2.2.2⟩
      · rw [cellsFrom_cons]
        exact ⟨hl.1, hl.2.1, hl.2.2.1, ih (by omega) hl.2.2.2⟩

theorem cellsFrom_eraseCell {low : Nat} (a : Nat) {l : List Cell} (hl : cellsFrom low l = true) :
    cellsFrom low (eraseCell a l) = true := by
  induction l generalizing low with
  | nil => rfl
  | cons c rest ih =>
    obtain ⟨k, w⟩ := c
    rw [cellsFrom_cons] at hl
    simp only [eraseCell]
    split
    · exact cellsFrom_mono (by omega) (ih hl.2.2.2)
    · rw [cellsFrom_cons]
      exact ⟨hl.1, hl.2.1, hl.2.2.1, ih hl.2.2.2⟩

/-- Every write keeps the canonical form. -/
theorem Memory.wf_write {m : Memory} (a v : Word) (h : m.wf = true) : (m.write a v).wf = true := by
  unfold Memory.wf Memory.write
  by_cases hv : v = Config.memInit
  · simpa [hv] using cellsFrom_eraseCell a.toNat h
  · simpa [hv] using cellsFrom_insertCell (Nat.zero_le _) a.isLt hv h

theorem State.setCell_wf {s : State} (a v : Word) (h : s.mem.wf = true) : (s.setCell a v).mem.wf = true :=
  Memory.wf_write a v h

end Sys2Proof.Machine
end

