-- ==== Sys2Proof/Laws/Ops.lean ====
section
/-! SUPPORT. What each shared operation can do, said once: the input collaborator, MemRead with its poll, and the string
loop. -/

namespace Sys2Proof.Machine

/-! ## The input collaborator -/

theorem Keyboard.nextAnswer_input (k : Keyboard) : k.nextAnswer.2.input = k.input := by
  unfold Keyboard.nextAnswer; split <;> rfl

/-- A poll that answers yes has taken the front character. -/
theorem Keyboard.poll_some {k k' : Keyboard} {c : Byte} (h : k.poll = (some c, k')) : k.input = c :: k'.input := by
  have hi := k.nextAnswer_input
  unfold Keyboard.poll at h
  split at h
  · rename_i k1 h1
    rw [h1] at hi
    split at h
    · rename_i c' rest h2
      simp only [Prod.mk.injEq, Option.some.injEq] at h
      obtain ⟨rfl, rfl⟩ := h
      rw [← hi, h2]
    · simp at h
  · simp at h

/-- A poll that answers no has taken nothing. -/
theorem Keyboard.poll_none {k k' : Keyboard} (h : k.poll = (none, k')) : k'.input = k.input := by
  have hi := k.nextAnswer_input
  unfold Keyboard.poll at h
  split at h
  · rename_i k1 h1
    rw [h1] at hi
    split at h
    · simp at h
    · simp only [Prod.mk.injEq, true_and] at h
      rw [← h, hi]
  · rename_i k1 h1
    rw [h1] at hi
    simp only [Prod.mk.injEq, true_and] at h
    rw [← h, hi]

/-- The poll answers yes exactly when the environment does and a character is there. -/
theorem Keyboard.poll_listed {k : Keyboard} {b : Bool} {bs : List Bool} (h : k.answers = b :: bs) :
    k.poll.1 = if b then k.input.head? else none := by
  unfold Keyboard.poll Keyboard.nextAnswer
  rw [h]
  cases b
  · rfl
  · cases k.input <;> simp

theorem Keyboard.getc_cons {k : Keyboard} {c : Byte} {rest : List Byte} (h : k.input = c :: rest) :
    k.getc = some (.char c, { k with input := rest }) := by
  simp [Keyboard.getc, h]

theorem Keyboard.getc_ended {k : Keyboard} (h : k.input = []) (he : k.ended = true) : k.getc = some (.eof, k) := by
  simp [Keyboard.getc, h, he]

theorem Keyboard.getc_waits {k : Keyboard} (h : k.input = []) (he : k.ended = false) : k.getc = none := by
  simp [Keyboard.getc, h, he]

/-- A blocking read takes characters from the front only. -/
theorem Keyboard.getc_input {k k' : Keyboard} {c : CharRead} (h : k.getc = some (c, k')) :
    ∃ taken, k.input = taken ++ k'.input := by
  unfold Keyboard.getc at h
  split at h
  · rename_i c' rest hi
    simp only [Option.some.injEq, Prod.mk.injEq] at h
    exact ⟨[c'], by rw [hi, ← h.2]; rfl⟩
  · split at h
    · simp only [Option.some.injEq, Prod.mk.injEq] at h
      exact ⟨[], by rw [← h.2]; rfl⟩
    · simp at h

/-! ## What reads and output can do to a state -/

/-- The most that MemReads and con_puts do together: they write no register, not pc, not COND, not the run state; of
memory at most the two device cells; they take input from the front and append output. -/
structure OnlyIo (s t : State) : Prop where
  regs : t.regs = s.regs
  pc : t.pc = s.pc
  cond : t.cond = s.cond
  run : t.run = s.run
  cells : ∀ a, a ≠ Config.kbsrAddr → a ≠ Config.kbdrAddr → t.cell a = s.cell a
  wf : s.mem.wf = true → t.mem.wf = true
  input : ∃ taken, s.kbd.input = taken ++ t.kbd.input
  output : ∃ bs, t.output = s.output ++ bs

theorem OnlyIo.refl (s : State) : OnlyIo s s :=
  ⟨rfl, rfl, rfl, rfl, fun _ _ _ => rfl, id, ⟨[], rfl⟩, ⟨[], by simp⟩⟩

theorem OnlyIo.trans {s t u : State} (h : OnlyIo s t) (h' : OnlyIo t u) : OnlyIo s u := by
  obtain ⟨x, hx⟩ := h.input
  obtain ⟨y, hy⟩ := h'.input
  obtain ⟨p, hp⟩ := h.output
  obtain ⟨q, hq⟩ := h'.output
  exact ⟨h'.regs.trans h.regs, h'.pc.trans h.pc, h'.cond.trans h.cond, h'.run.trans h.run,
    fun a h1 h2 => (h'.cells a h1 h2).trans (h.cells a h1 h2), fun hs => h'.wf (h.wf hs),
    ⟨x ++ y, by rw [hx, hy, List.append_assoc]⟩, ⟨p ++ q, by rw [hq, hp, List.append_assoc]⟩⟩

theorem State.pollStatus_onlyIo (s : State) : OnlyIo s s.pollStatus := by
  unfold State.pollStatus
  split
  · rename_i c k h
    refine ⟨rfl, rfl, rfl, rfl, fun a h1 h2 => ?_, fun hs => ?_, ⟨[c], Keyboard.poll_some h⟩, ⟨[], by simp⟩⟩
    · rw [State.setCell_cell_other _ _ _ _ h2, State.setCell_cell_other _ _ _ _ h1]; rfl
    · exact State.setCell_wf _ _ (State.setCell_wf _ _ hs)
  · rename_i k h
    refine ⟨rfl, rfl, rfl, rfl, fun a h1 _ => ?_, fun hs => ?_, ⟨[], (Keyboard.poll_none h).symm⟩, ⟨[], by simp⟩⟩
    · rw [State.setCell_cell_other _ _ _ _ h1]; rfl
    · exact State.setCell_wf _ _ hs

theorem State.touch_onlyIo (a : Word) (s : State) : OnlyIo s (s.touch a) := by
  unfold State.touch
  split
  · exact s.pollStatus_onlyIo
  · exact OnlyIo.refl s

theorem State.conPuts_onlyIo (bs : List Byte) (s : State) : OnlyIo s (s.conPuts bs) :=
  ⟨rfl, rfl, rfl, rfl, fun _ _ _ => rfl, id, ⟨[], rfl⟩, ⟨bs, rfl⟩⟩

/-! ## MemRead -/

@[simp] theorem State.memRead_snd (a : Word) (s : State) : (s.memRead a).2 = s.touch a := rfl

theorem State.memRead_fst (a : Word) (s : State) : (s.memRead a).1 = (s.touch a).cell a := rfl

theorem State.touch_plain {a : Word} (h : a ≠ Config.kbsrAddr) (s : State) : s.touch a = s := by
  simp [State.touch, h]

theorem State.touch_status (s : State) : s.touch Config.kbsrAddr = s.pollStatus := by
  simp [State.touch]

/-- A read of any address but the status address has no side effect. -/
theorem State.memRead_plain {a : Word} (h : a ≠ Config.kbsrAddr) (s : State) : s.memRead a = (s.cell a, s) := by
  simp [State.memRead, State.touch_plain h]

@[simp] theorem State.touch_output (a : Word) (s : State) : (s.touch a).output = s.output := by
  unfold State.touch State.pollStatus
  split
  · split <;> rfl
  · rfl

@[simp] theorem State.touch_regs (a : Word) (s : State) : (s.touch a).regs = s.regs := (s.touch_onlyIo a).regs
@[simp] theorem State.touch_pc (a : Word) (s : State) : (s.touch a).pc = s.pc := (s.touch_onlyIo a).pc
@[simp] theorem State.touch_cond (a : Word) (s : State) : (s.touch a).cond = s.cond := (s.touch_onlyIo a).cond
@[simp] theorem State.touch_run (a : Word) (s : State) : (s.touch a).run = s.run := (s.touch_onlyIo a).run
@[simp] theorem State.touch_reg (a : Word) (s : State) (i : Reg) : (s.touch a).reg i = s.reg i :=
  State.reg_of_regs (s.touch_regs a) i

theorem kbdr_ne_kbsr : Config.kbdrAddr ≠ Config.kbsrAddr := by decide

/-- The status cell after a poll that took character c, and the data cell. -/
theorem State.pollStatus_some {s : State} {c : Byte} {k : Keyboard} (h : s.kbd.poll = (some c, k)) :
    s.pollStatus.cell Config.kbsrAddr = readyStatus Config.kbsrReadyWrite (s.cell Config.kbsrAddr) ∧
      s.pollStatus.cell Config.kbdrAddr = zext c ∧ s.pollStatus.kbd = k := by
  simp only [State.pollStatus, h]
  refine ⟨?_, State.setCell_cell_same _ _ _, rfl⟩
  rw [State.setCell_cell_other _ _ _ _ (Ne.symm kbdr_ne_kbsr), State.setCell_cell_same]

/-- The status cell after a poll that took nothing; every other cell is as it was. -/
theorem State.pollStatus_none {s : State} {k : Keyboard} (h : s.kbd.poll = (none, k)) :
    s.pollStatus.cell Config.kbsrAddr = 0x0000#16 ∧
      (∀ a, a ≠ Config.kbsrAddr → s.pollStatus.cell a = s.cell a) ∧ s.pollStatus.kbd = k := by
  simp only [State.pollStatus, h]
  refine ⟨State.setCell_cell_same _ _ _, fun a ha => ?_, rfl⟩
  rw [State.setCell_cell_other _ _ _ _ ha]; rfl

/-! ## The string loop -/

/-- Whatever the string loop does, it does by reads and output. -/
theorem State.printWords_onlyIo {emit : Word → List Byte} {fuel : Nat} {a : Word} {s t : State}
    (h : State.printWords emit fuel a s = some t) : OnlyIo s t := by
  induction fuel generalizing a s with
  | zero => simp [State.printWords] at h
  | succ n ih =>
    simp only [State.printWords] at h
    split at h
    · rw [← Option.some.inj h]; exact s.touch_onlyIo a
    · exact ((s.touch_onlyIo a).trans (State.conPuts_onlyIo _ _)).trans (ih h)

/-- More fuel does not change a loop that ends. -/
theorem State.printWords_mono {emit : Word → List Byte} {fuel fuel' : Nat} (hf : fuel ≤ fuel') {a : Word} {s t : State}
    (h : State.printWords emit fuel a s = some t) : State.printWords emit fuel' a s = some t := by
  induction fuel generalizing fuel' a s with
  | zero => simp [State.printWords] at h
  | succ n ih =>
    obtain ⟨m, rfl⟩ : ∃ m, fuel' = m + 1 := ⟨fuel' - 1, by omega⟩
    simp only [State.printWords] at h ⊢
    split at h
    · rename_i h0; rw [if_pos h0]; exact h
    · rename_i h0; rw [if_neg h0]; exact ih (by omega) h

theorem State.printString_onlyIo {emit : Word → List Byte} {s t : State} (h : s.printString emit = some t) :
    OnlyIo s t :=
  State.printWords_onlyIo h

/-- A status cell that shows input ready is not zero, under both readings of R51. -/
theorem readyStatus_ne_zero (m : KbsrReadyWrite) (w : Word) : readyStatus m w ≠ 0x0000#16 := by
  intro h
  have := congrArg (fun x : Word => x.getLsbD 15) h
  cases m <;> simp [readyStatus] at this

/-- From any address the loop ends at the latest at the next read of the status address, or goes on past it with one
character of input fewer. -/
theorem State.printWords_lap (emit : Word → List Byte) (d : Nat) (a : Word) (s : State) (f : Nat)
    (hd : (Config.kbsrAddr - a).toNat = d) :
    (∃ t, State.printWords emit (d + 1 + f) a s = some t) ∨
      ∃ s', s'.kbd.input.length + 1 = s.kbd.input.length ∧
        State.printWords emit (d + 1 + f) a s = State.printWords emit f (Config.kbsrAddr + 1) s' := by
  induction d generalizing a s with
  | zero =>
    have ha : a = Config.kbsrAddr := by
      revert hd; generalize Config.kbsrAddr = k; intro hd; bv_omega
    subst ha
    rw [show 0 + 1 + f = f + 1 by omega]
    simp only [State.printWords, State.memRead_snd, State.memRead_fst, State.touch_status]
    rcases hp : s.kbd.poll with ⟨_ | c, k⟩
    · rw [(State.pollStatus_none hp).1]
      exact .inl ⟨_, rfl⟩
    · rw [(State.pollStatus_some hp).1, if_neg (readyStatus_ne_zero _ _)]
      refine .inr ⟨_, ?_, rfl⟩
      rw [State.conPuts_kbd, (State.pollStatus_some hp).2.2, Keyboard.poll_some hp]
      rfl
  | succ d ih =>
    have ha : a ≠ Config.kbsrAddr := by
      rintro rfl; simp at hd
    rw [show d + 1 + 1 + f = (d + 1 + f) + 1 by omega]
    simp only [State.printWords, State.memRead_plain ha]
    split
    · exact .inl ⟨_, rfl⟩
    · rename_i h0
      have := ih (a + 1) (s.conPuts (emit (s.cell a))) (by
        revert hd; generalize Config.kbsrAddr = k; intro hd; bv_omega)
      simpa using this

/-- The loop ends within one round of the addresses for each character of input and one more. -/
theorem State.printWords_isSome (emit : Word → List Byte) (n : Nat) (a : Word) (s : State) (hn : s.kbd.input.length = n) :
    ∃ t, State.printWords emit (Config.memWords * (n + 1)) a s = some t := by
  induction n generalizing a s with
  | zero =>
    have hlt := (Config.kbsrAddr - a).isLt
    obtain ⟨t, ht⟩ | ⟨s', h', -⟩ := State.printWords_lap emit _ a s 0 rfl
    · exact ⟨t, State.printWords_mono (by simp only [Config.memWords]; omega) ht⟩
    · omega
  | succ n ih =>
    have hlt := (Config.kbsrAddr - a).isLt
    obtain ⟨t, ht⟩ | ⟨s', h', he⟩ := State.printWords_lap emit _ a s (Config.memWords * (n + 1)) rfl
    · exact ⟨t, State.printWords_mono (by simp only [Config.memWords]; omega) ht⟩
    · obtain ⟨t, ht⟩ := ih (Config.kbsrAddr + 1) s' (by omega)
      exact ⟨t, State.printWords_mono (by simp only [Config.memWords]; omega) (he.trans ht)⟩
/-- The string loop of PUTS and PUTSP ends from every state: `stringNeverEnds` is never raised (log 32). -/
theorem State.printString_isSome (emit : Word → List Byte) (s : State) : ∃ t, s.printString emit = some t :=
  State.printWords_isSome emit _ _ s rfl

end Sys2Proof.Machine
end

