-- ==== Sys2Proof/Laws/Effects.lean ====
section
/-! SUPPORT. The shared operations in the terms of Safety.lean, one lemma each, and the loader's cell writes: what a
proof about an instruction cites in place of unfolding. -/

namespace Sys2Proof.Machine

/-- R[dr] <- v; setcc(dr), as a whole. -/
theorem State.writeResult_wroteResult (dr : Reg) (v : Word) (s : State) : WroteResult dr v s (s.writeResult dr v) :=
  ⟨by simp, by simp, fun r hr => State.writeResult_reg_other _ _ _ _ (by simpa using hr), rfl, rfl, rfl, rfl, rfl⟩

/-- R[dr] <- MemRead(a, 1); setcc(dr), as a whole. -/
theorem State.memRead_loadedFrom (dr : Reg) (a : Word) (s : State) :
    LoadedFrom dr a s ((s.memRead a).2.writeResult dr (s.memRead a).1) where
  value := by simp
  cond := by simp
  regs r hr := by rw [State.writeResult_reg_other _ _ _ _ (by simpa using hr)]; simp
  pc := by simp
  run := by simp
  output := by simp
  mem := rfl
  kbd := rfl
  cells x hx := by
    by_cases ha : a = Config.kbsrAddr
    · rw [if_pos ha] at hx
      simp only [deviceCells, List.mem_cons, List.not_mem_nil, or_false, not_or] at hx
      exact (s.touch_onlyIo a).cells x hx.1 hx.2
    · simp only [State.memRead_plain ha]; rfl
  plain ha := by simp [State.memRead_plain ha]

/-- Output leaves every cell alone. -/
@[simp] theorem State.conPuts_cell (bs : List Byte) (s : State) (a : Word) : (s.conPuts bs).cell a = s.cell a := rfl

/-- The fetch: the read of mem[pc0] with its poll, and pc at pc0 + 1. -/
theorem State.fetch_eq (s : State) : s.fetch = ((s.memRead s.pc).1, { (s.memRead s.pc).2 with pc := s.pc + 1 }) := rfl

/-- EXIT_FATAL is not zero, whatever its free value (D17). -/
theorem Config.exitFatal_ne_zero : Config.exitFatal ≠ 0 := Nat.succ_ne_zero _

/-- Every load failure leaves a non-zero exit status (R252). -/
theorem LoadFailure.exitStatus_ne_zero (f : LoadFailure) : f.exitStatus ≠ 0 := by
  cases f <;> exact Nat.succ_ne_zero _

/-- BR's test by cases (43_control.md R150). -/
theorem branchTaken_iff (n z p : Bool) (c : Cond) :
    branchTaken n z p c = true ↔
      (n = true ∧ c = .negative) ∨ (z = true ∧ c = .zero) ∨ (p = true ∧ c = .positive) := by
  cases n <;> cases z <;> cases p <;> cases c <;> decide

/-- An image byte pair is b0 * 256 + b1 (70_reset_and_hazards.md R246). -/
theorem imageWord_eq_append (b0 b1 : Byte) : imageWord b0 b1 = b0 ++ b1 := by
  apply BitVec.eq_of_getLsbD_eq
  intro i hi
  have m : ∀ j, j < 16 → (0xFF00#16).getLsbD j = decide (8 ≤ j) := by decide
  simp only [imageWord, bswap, nativePair, BitVec.getLsbD_or, BitVec.getLsbD_and, BitVec.getLsbD_shiftLeft,
    BitVec.getLsbD_ushiftRight, BitVec.getLsbD_append, m i hi]
  by_cases h : i < 8
  · simp [h, show ¬ (8 ≤ i) by omega, Nat.add_comm]
  · simp [h, show (8 ≤ i) by omega, show i - 8 < 8 by omega, hi, show ¬ (8 + i < 8) by omega]

/-- The loader keeps the canonical form. -/
theorem loadWords_wf (p : List Byte) (a : Word) (cap : Nat) (m : Memory) (h : m.wf = true) :
    (loadWords p a cap m).wf = true := by
  fun_induction loadWords p a cap m with
  | case1 b0 b1 rest a cap m ih => exact ih (Memory.wf_write a _ h)
  | case2 => exact h

end Sys2Proof.Machine
end

