-- ==== Sys2Proof/Laws/PerInstr.lean ====
section
/-! SUPPORT. Families of per-instruction laws: one lemma per constructor of Instr. -/

namespace Sys2Proof

/-- The opcode of an instruction (30_encoding.md R86). -/
def Instr.opcode : Instr → Opcode
  | .br _ _ _ _ => .br
  | .addReg _ _ _ => .add
  | .addImm _ _ _ => .add
  | .ld _ _ => .ld
  | .st _ _ => .st
  | .jsr _ => .jsr
  | .jsrr _ => .jsr
  | .andReg _ _ _ => .and
  | .andImm _ _ _ => .and
  | .ldr _ _ _ => .ldr
  | .str _ _ _ => .str
  | .reserved8 => .reserved8
  | .notReg _ _ => .not
  | .ldi _ _ => .ldi
  | .sti _ _ => .sti
  | .jmp _ => .jmp
  | .reserved13 => .reserved13
  | .lea _ _ => .lea
  | .trapGetc => .trap
  | .trapOut => .trap
  | .trapPuts => .trap
  | .trapIn => .trap
  | .trapPutsp => .trap
  | .trapHalt => .trap
  | .trapUnknown _ => .trap

end Sys2Proof

namespace Sys2Proof.Laws.EncodedOpcode

/-- An instruction's word carries its opcode in bits 15 to 12 (30_encoding.md R80, R81, R86). -/
def Statement (i : Instr) : Prop := field 12 4 (encode i) = Config.opcodeBits i.opcode

theorem br (n : Bool) (z : Bool) (p : Bool) (off : BitVec 9) : Statement (.br n z p off) := field_opcode _ _

theorem addReg (dr : Reg) (sr1 : Reg) (sr2 : Reg) : Statement (.addReg dr sr1 sr2) := field_opcode _ _

theorem addImm (dr : Reg) (sr1 : Reg) (imm : BitVec 5) : Statement (.addImm dr sr1 imm) := field_opcode _ _

theorem ld (dr : Reg) (off : BitVec 9) : Statement (.ld dr off) := field_opcode _ _

theorem st (sr : Reg) (off : BitVec 9) : Statement (.st sr off) := field_opcode _ _

theorem jsr (off : BitVec 11) : Statement (.jsr off) := field_opcode _ _

theorem jsrr (base : Reg) : Statement (.jsrr base) := field_opcode _ _

theorem andReg (dr : Reg) (sr1 : Reg) (sr2 : Reg) : Statement (.andReg dr sr1 sr2) := field_opcode _ _

theorem andImm (dr : Reg) (sr1 : Reg) (imm : BitVec 5) : Statement (.andImm dr sr1 imm) := field_opcode _ _

theorem ldr (dr : Reg) (base : Reg) (off : BitVec 6) : Statement (.ldr dr base off) := field_opcode _ _

theorem str (sr : Reg) (base : Reg) (off : BitVec 6) : Statement (.str sr base off) := field_opcode _ _

theorem reserved8 : Statement .reserved8 := field_opcode _ _

theorem notReg (dr : Reg) (sr : Reg) : Statement (.notReg dr sr) := field_opcode _ _

theorem ldi (dr : Reg) (off : BitVec 9) : Statement (.ldi dr off) := field_opcode _ _

theorem sti (sr : Reg) (off : BitVec 9) : Statement (.sti sr off) := field_opcode _ _

theorem jmp (base : Reg) : Statement (.jmp base) := field_opcode _ _

theorem reserved13 : Statement .reserved13 := field_opcode _ _

theorem lea (dr : Reg) (off : BitVec 9) : Statement (.lea dr off) := field_opcode _ _

theorem trapGetc : Statement .trapGetc := field_opcode _ _

theorem trapOut : Statement .trapOut := field_opcode _ _

theorem trapPuts : Statement .trapPuts := field_opcode _ _

theorem trapIn : Statement .trapIn := field_opcode _ _

theorem trapPutsp : Statement .trapPutsp := field_opcode _ _

theorem trapHalt : Statement .trapHalt := field_opcode _ _

theorem trapUnknown (v : BitVec 8) : Statement (.trapUnknown v) := field_opcode _ _

end Sys2Proof.Laws.EncodedOpcode
end

