-- ==== Sys2Proof/Tests/Slice0.lean ====
section
/-! SUPPORT. The model's own tests. Words are written out from the format table 30_encoding.md R81; the values of a step are
those of 95_test_vectors.md, whose section stands beside each test. The last part shows, for each statement that has
hypotheses, concrete data that meet them. -/

namespace Sys2Proof.Tests

open Sys2Proof.Machine

/-! ## A small state: the reset state, changed in the places a test names -/

/-- pc, the word at pc, then registers and cells. -/
def stateOf (pc word : Word) (regs : List (Reg × Word)) (cells : List (Word × Word)) : State :=
  let s := (State.reset.setPc pc).setCell pc word
  let s := regs.foldl (fun s p => s.setReg p.1 p.2) s
  cells.foldl (fun s p => s.setCell p.1 p.2) s

/-- The same with COND. -/
def withCond (c : Cond) (s : State) : State := s.setCond c

/-- The same with input and answers to polls. -/
def withInput (input : List Byte) (answers : List Bool) (s : State) : State :=
  s.setKbd { input := input, ended := false, answers := answers, polls := 0 }

/-- A property of the next state; false where there is none. -/
def nextIs (o : Host.Outcome State Fault Refusal) (p : State → Bool) : Bool :=
  match o with
  | .next t => p t
  | .fault _ => false
  | .refused _ => false

/-- The fault a step ends in. -/
def faultOf (o : Host.Outcome State Fault Refusal) : Option Fault :=
  match o with
  | .next _ => none
  | .fault f => some f
  | .refused _ => none

theorem exists_of_nextIs {o : Host.Outcome State Fault Refusal} {p : State → Bool} (h : nextIs o p = true) :
    ∃ t, o = .next t ∧ p t = true := by
  cases o with
  | next t => exact ⟨t, rfl, h⟩
  | fault _ => simp [nextIs] at h
  | refused _ => simp [nextIs] at h

/-! ## WellFormed refuses an ill-formed term -/

theorem test_wellFormed_refuses_halt_as_unknown : (Instr.trapUnknown 0x25#8).wellFormed = false := by decide
theorem test_wellFormed_refuses_getc_as_unknown : (Instr.trapUnknown 0x20#8).wellFormed = false := by decide
theorem test_wellFormed_admits_unknown : (Instr.trapUnknown 0x26#8).wellFormed = true := by decide

/-! ## Decoding: words written out bit by bit from R81, and encoding (R90, R91 for the ignored bits) -/

/-- 0000 n z p PCoffset9. -/
theorem test_decode_br : decode 0b0000101000000101#16 = .br true false true 0b000000101#9 := by decide
/-- 0001 DR SR1 0 xx SR2, the x bits set. -/
theorem test_decode_addReg : decode 0b0001001010011100#16 = .addReg .r1 .r2 .r4 := by decide
/-- 0001 DR SR1 1 imm5. -/
theorem test_decode_addImm : decode 0b0001011100110001#16 = .addImm .r3 .r4 0b10001#5 := by decide
/-- 0010 DR PCoffset9. -/
theorem test_decode_ld : decode 0b0010110100000001#16 = .ld .r6 0b100000001#9 := by decide
/-- 0011 SR PCoffset9. -/
theorem test_decode_st : decode 0b0011101011111110#16 = .st .r5 0b011111110#9 := by decide
/-- 0100 1 PCoffset11. -/
theorem test_decode_jsr : decode 0b0100110000000001#16 = .jsr 0b10000000001#11 := by decide
/-- 0100 0 xx BaseR xxxxxx, the x bits set. -/
theorem test_decode_jsrr : decode 0b0100011011111111#16 = .jsrr .r3 := by decide
/-- 0101 DR SR1 0 xx SR2. -/
theorem test_decode_andReg : decode 0b0101111001000110#16 = .andReg .r7 .r1 .r6 := by decide
/-- 0101 DR SR1 1 imm5. -/
theorem test_decode_andImm : decode 0b0101000111101110#16 = .andImm .r0 .r7 0b01110#5 := by decide
/-- 0110 DR BaseR offset6. -/
theorem test_decode_ldr : decode 0b0110010001100001#16 = .ldr .r2 .r1 0b100001#6 := by decide
/-- 0111 SR BaseR offset6. -/
theorem test_decode_str : decode 0b0111101110011110#16 = .str .r5 .r6 0b011110#6 := by decide
/-- 1000 xxxxxxxxxxxx. -/
theorem test_decode_reserved8 : decode 0b1000101010101010#16 = .reserved8 := by decide
/-- 1001 DR SR xxxxxx, the x bits clear. -/
theorem test_decode_not : decode 0b1001001101000000#16 = .notReg .r1 .r5 := by decide
/-- 1010 DR PCoffset9. -/
theorem test_decode_ldi : decode 0b1010100110000001#16 = .ldi .r4 0b110000001#9 := by decide
/-- 1011 SR PCoffset9. -/
theorem test_decode_sti : decode 0b1011001000000111#16 = .sti .r1 0b000000111#9 := by decide
/-- 1100 xxx BaseR xxxxxx, the x bits set. -/
theorem test_decode_jmp : decode 0b1100111010111111#16 = .jmp .r2 := by decide
/-- 1101 xxxxxxxxxxxx. -/
theorem test_decode_reserved13 : decode 0b1101000100100011#16 = .reserved13 := by decide
/-- 1110 DR PCoffset9. -/
theorem test_decode_lea : decode 0b1110011111111111#16 = .lea .r3 0b111111111#9 := by decide
/-- 1111 xxxx trapvect8, the x bits set, for the six vectors of 45_trap.md R181. -/
theorem test_decode_trap_routines :
    decode 0b1111111100100000#16 = .trapGetc ∧ decode 0b1111000000100001#16 = .trapOut ∧
      decode 0b1111000000100010#16 = .trapPuts ∧ decode 0b1111000000100011#16 = .trapIn ∧
      decode 0b1111000000100100#16 = .trapPutsp ∧ decode 0b1111000000100101#16 = .trapHalt := by decide
/-- The vectors beside the six (R88). -/
theorem test_decode_trap_unknown :
    decode 0b1111000000011111#16 = .trapUnknown 0x1F#8 ∧ decode 0b1111101000100110#16 = .trapUnknown 0x26#8 := by decide

theorem test_encode_operate :
    encode (.addReg .r0 .r1 .r2) = 0x1042#16 ∧ encode (.addImm .r0 .r0 1#5) = 0x1021#16 ∧
      encode (.andReg .r0 .r1 .r2) = 0x5042#16 ∧ encode (.andImm .r0 .r0 0#5) = 0x5020#16 ∧
      encode (.notReg .r1 .r1) = 0x927F#16 := by decide
theorem test_encode_control :
    encode (.br false false true 0x1FD#9) = 0x03FD#16 ∧ encode (.jmp .r7) = 0xC1C0#16 ∧
      encode (.jsr 5#11) = 0x4805#16 ∧ encode (.jsrr .r2) = 0x4080#16 := by decide
theorem test_encode_memory :
    encode (.ld .r1 0x00B#9) = 0x220B#16 ∧ encode (.ldi .r1 4#9) = 0xA204#16 ∧ encode (.ldr .r4 .r3 2#6) = 0x68C2#16 ∧
      encode (.lea .r3 7#9) = 0xE607#16 ∧ encode (.st .r0 0x00A#9) = 0x300A#16 ∧
      encode (.sti .r1 1#9) = 0xB201#16 ∧ encode (.str .r5 .r1 0x3F#6) = 0x7A7F#16 := by decide
theorem test_encode_trap :
    encode .trapGetc = 0xF020#16 ∧ encode .trapOut = 0xF021#16 ∧ encode .trapPuts = 0xF022#16 ∧
      encode .trapIn = 0xF023#16 ∧ encode .trapPutsp = 0xF024#16 ∧ encode .trapHalt = 0xF025#16 ∧
      encode (.trapUnknown 0xFF#8) = 0xF0FF#16 ∧ encode .reserved8 = 0x8000#16 ∧ encode .reserved13 = 0xD000#16 := by
  decide

/-- Big-endian bytes, the rest handed back; a lone byte is no word. -/
theorem test_decodeBytes :
    decodeBytes [0x10#8, 0x21#8, 0xF0#8] = .ok (.addImm .r0 .r0 1#5, [0xF0#8]) ∧
      decodeBytes [0x10#8] = .error .truncatedWord ∧ decodeTableWord 16 0x1021 = some (.addImm .r0 .r0 1#5) ∧
      decodeTableWord 16 0x10000 = none := ⟨rfl, rfl, by decide, by decide⟩

/-! ## Word utilities (2.1) and flags (2.2) -/

theorem test_sext : sext 0x10#5 = 0xFFF0#16 ∧ sext 0x0F#5 = 0x000F#16 ∧ sext 0x20#6 = 0xFFE0#16 ∧
    sext 0x1FD#9 = 0xFFFD#16 ∧ sext 0x0FF#9 = 0x00FF#16 ∧ sext 0x400#11 = 0xFC00#16 ∧ sext 0x3FF#11 = 0x03FF#16 := by
  decide
theorem test_bswap : bswap 0x1234#16 = 0x3412#16 ∧ bswap 0x00FF#16 = 0xFF00#16 ∧ bswap 0xABAB#16 = 0xABAB#16 := by decide
theorem test_condOf : condOf 0x0000#16 = .zero ∧ condOf 0x0001#16 = .positive ∧ condOf 0x7FFF#16 = .positive ∧
    condOf 0x8000#16 = .negative ∧ condOf 0xFFFF#16 = .negative := by decide

/-! ## One step (2.3 to 2.9) -/

theorem test_add_wraps : nextIs (step (stateOf 0x3000#16 0x1042#16 [(.r1, 0xFFFF#16), (.r2, 0x0001#16)] []))
    (fun t => t.reg .r0 = 0x0000#16 ∧ t.cond = .zero ∧ t.pc = 0x3001#16) = true := by decide
theorem test_add_sets_negative : nextIs (step (stateOf 0x3000#16 0x1042#16 [(.r1, 0x7FFF#16), (.r2, 0x0001#16)] []))
    (fun t => t.reg .r0 = 0x8000#16 ∧ t.cond = .negative) = true := by decide
theorem test_add_immediate_at_top_of_memory : nextIs (step (stateOf 0xFFFF#16 0x1021#16 [] []))
    (fun t => t.reg .r0 = 0x0001#16 ∧ t.cond = .positive ∧ t.pc = 0x0000#16) = true := by decide
theorem test_add_immediate_minus_16 : nextIs (step (stateOf 0x3000#16 0x1030#16 [(.r0, 0x0010#16)] []))
    (fun t => t.reg .r0 = 0x0000#16 ∧ t.cond = .zero) = true := by decide
theorem test_and_register : nextIs (step (stateOf 0x3000#16 0x5042#16 [(.r1, 0xF000#16), (.r2, 0x8FFF#16)] []))
    (fun t => t.reg .r0 = 0x8000#16 ∧ t.cond = .negative) = true := by decide
theorem test_and_immediate_sign_extends : nextIs (step (stateOf 0x3000#16 0x5030#16 [(.r0, 0xABCD#16)] []))
    (fun t => t.reg .r0 = 0xABC0#16 ∧ t.cond = .negative) = true := by decide
theorem test_and_immediate_15 : nextIs (step (stateOf 0x3000#16 0x502F#16 [(.r0, 0xABCD#16)] []))
    (fun t => t.reg .r0 = 0x000D#16 ∧ t.cond = .positive) = true := by decide
theorem test_not : nextIs (step (stateOf 0x3000#16 0x907F#16 [(.r1, 0x8000#16)] []))
    (fun t => t.reg .r0 = 0x7FFF#16 ∧ t.cond = .positive) = true := by decide
theorem test_br_taken_wraps : nextIs (step (withCond .positive (stateOf 0xFFFE#16 0x0E02#16 [] [])))
    (fun t => t.pc = 0x0001#16 ∧ t.cond = .positive) = true := by decide
theorem test_br_n_only : nextIs (step (withCond .negative (stateOf 0x3000#16 0x0805#16 [] [])))
    (fun t => t.pc = 0x3006#16) = true ∧ nextIs (step (withCond .positive (stateOf 0x3000#16 0x0805#16 [] [])))
    (fun t => t.pc = 0x3001#16) = true := by decide
theorem test_jmp : nextIs (step (stateOf 0x3000#16 0xCE80#16 [(.r2, 0x1234#16), (.r7, 0x4000#16)] []))
    (fun t => t.pc = 0x1234#16 ∧ t.reg .r7 = 0x4000#16) = true := by decide
theorem test_jsr : nextIs (step (stateOf 0x3000#16 0x4805#16 [(.r7, 0x1111#16)] []))
    (fun t => t.pc = 0x3006#16 ∧ t.reg .r7 = 0x3001#16 ∧ t.cond = .zero) = true := by decide
theorem test_jsr_backwards : nextIs (step (stateOf 0x3000#16 0x4C00#16 [] []))
    (fun t => t.pc = 0x2C01#16 ∧ t.reg .r7 = 0x3001#16) = true := by decide
theorem test_jsrr : nextIs (step (stateOf 0x3010#16 0x4080#16 [(.r2, 0x4000#16)] []))
    (fun t => t.pc = 0x4000#16 ∧ t.reg .r7 = 0x3011#16) = true := by decide
theorem test_jsrr_r7_falls_through : nextIs (step (stateOf 0x3010#16 0x41C0#16 [(.r7, 0x5000#16)] []))
    (fun t => t.pc = 0x3011#16 ∧ t.reg .r7 = 0x3011#16) = true := by decide
theorem test_ld : nextIs (step (stateOf 0x3000#16 0x2002#16 [] [(0x3003#16, 0x8001#16)]))
    (fun t => t.reg .r0 = 0x8001#16 ∧ t.cond = .negative ∧ t.pc = 0x3001#16) = true := by decide
theorem test_ld_loads_itself : nextIs (step (stateOf 0x3000#16 0x21FF#16 [] []))
    (fun t => t.reg .r0 = 0x21FF#16 ∧ t.cond = .positive) = true := by decide
theorem test_ldi : nextIs (step (stateOf 0x3000#16 0xA001#16 [] [(0x3002#16, 0x4000#16), (0x4000#16, 0x0042#16)]))
    (fun t => t.reg .r0 = 0x0042#16 ∧ t.cond = .positive) = true := by decide
/-- 2.10 and program P5: the second read polls, the status cell keeps its low bits under or_bit15. -/
theorem test_ldi_polls : nextIs (step (withInput [0x7A#8] [true]
      (stateOf 0x3000#16 0xA201#16 [] [(0x3002#16, 0xFE00#16), (0xFE00#16, 0x0005#16)])))
    (fun t => t.reg .r1 = 0x8005#16 ∧ t.cond = .negative ∧ t.cell 0xFE00#16 = 0x8005#16 ∧ t.cell 0xFE02#16 = 0x007A#16 ∧
      t.kbd.input = []) = true := by decide
theorem test_ldr_wraps : nextIs (step (stateOf 0x3000#16 0x6241#16 [(.r1, 0xFFFF#16)] [(0x0000#16, 0x1234#16)]))
    (fun t => t.reg .r1 = 0x1234#16 ∧ t.cond = .positive) = true := by decide
theorem test_ldr_minus_32 : nextIs (step (stateOf 0x3000#16 0x6460#16 [(.r1, 0x4020#16)] [(0x4000#16, 0xFFFF#16)]))
    (fun t => t.reg .r2 = 0xFFFF#16 ∧ t.cond = .negative) = true := by decide
theorem test_lea_sets_negative : nextIs (step (stateOf 0x8000#16 0xE1FF#16 [] []))
    (fun t => t.reg .r0 = 0x8000#16 ∧ t.cond = .negative) = true := by decide
theorem test_lea_sets_zero : nextIs (step (stateOf 0x0000#16 0xE1FF#16 [] []))
    (fun t => t.reg .r0 = 0x0000#16 ∧ t.cond = .zero) = true := by decide
theorem test_st : nextIs (step (stateOf 0x3000#16 0x3202#16 [(.r1, 0xBEEF#16)] []))
    (fun t => t.cell 0x3003#16 = 0xBEEF#16 ∧ t.cell 0x3000#16 = 0x3202#16 ∧ t.cond = .zero) = true := by decide
theorem test_st_over_itself : nextIs (step (stateOf 0x3000#16 0x33FF#16 [] []))
    (fun t => t.cell 0x3000#16 = 0x0000#16 ∧ t.mem.wf ∧ t.pc = 0x3001#16) = true := by decide
theorem test_sti_pointer_at_itself :
    nextIs (step (stateOf 0x3000#16 0xB201#16 [(.r1, 0x0007#16)] [(0x3002#16, 0x3002#16)]))
    (fun t => t.cell 0x3002#16 = 0x0007#16) = true := by decide
theorem test_sti_to_the_status_cell :
    nextIs (step (withInput [0x61#8] [true] (stateOf 0x3000#16 0xB201#16 [(.r1, 0x1234#16)] [(0x3002#16, 0xFE00#16)])))
    (fun t => t.cell 0xFE00#16 = 0x1234#16 ∧ t.kbd.input = [0x61#8]) = true := by decide
theorem test_str : nextIs (step (stateOf 0x3000#16 0x7A7F#16 [(.r1, 0x4000#16), (.r5, 0x1234#16)] []))
    (fun t => t.cell 0x3FFF#16 = 0x1234#16) = true := by decide
theorem test_str_wraps : nextIs (step (stateOf 0x3000#16 0x725F#16 [(.r1, 0xFFF0#16)] []))
    (fun t => t.cell 0x000F#16 = 0xFFF0#16) = true := by decide
theorem test_getc : nextIs (step (withInput [0x61#8, 0x62#8] [] (stateOf 0x3000#16 0xF020#16 [(.r7, 0x5555#16)] [])))
    (fun t => t.reg .r0 = 0x0061#16 ∧ t.cond = .positive ∧ t.kbd.input = [0x62#8] ∧ t.output = [] ∧
      t.reg .r7 = 0x5555#16) = true := by decide
theorem test_getc_waits : faultOf (step (withInput [] [] (stateOf 0x3000#16 0xF020#16 [] []))) =
    some .waitingForInput := by decide
theorem test_out : nextIs (step (stateOf 0x3000#16 0xF021#16 [(.r0, 0x1241#16)] []))
    (fun t => t.output = [0x41#8] ∧ t.reg .r0 = 0x1241#16 ∧ t.cond = .zero) = true := by decide
theorem test_puts : nextIs (step (stateOf 0x3000#16 0xF022#16 [(.r0, 0x4000#16)]
      [(0x4000#16, 0x0141#16), (0x4001#16, 0x0100#16), (0x4002#16, 0x0042#16)]))
    (fun t => t.output = [0x41#8, 0x00#8, 0x42#8] ∧ t.reg .r0 = 0x4000#16) = true := by decide
theorem test_puts_wraps : nextIs (step (stateOf 0x3000#16 0xF022#16 [(.r0, 0xFFFF#16)]
      [(0xFFFF#16, 0x0041#16), (0x0000#16, 0x0042#16)]))
    (fun t => t.output = [0x41#8, 0x42#8]) = true := by decide
theorem test_in : nextIs (step (withInput [0x78#8] [] (stateOf 0x3000#16 0xF023#16 [] [])))
    (fun t => t.output = Config.inPrompt ++ [0x78#8] ∧ t.reg .r0 = 0x0078#16 ∧ t.cond = .positive ∧
      t.kbd.input = []) = true := by decide
theorem test_putsp : nextIs (step (stateOf 0x3000#16 0xF024#16 [(.r0, 0x4000#16)]
      [(0x4000#16, 0x4100#16), (0x4001#16, 0x0042#16), (0x4002#16, 0x4443#16)]))
    (fun t => t.output = [0x00#8, 0x41#8, 0x42#8, 0x43#8, 0x44#8]) = true := by decide
theorem test_halt : nextIs (step (stateOf 0x3000#16 0xFF25#16 [] []))
    (fun t => t.output = [0x48#8, 0x41#8, 0x4C#8, 0x54#8, 0x0A#8] ∧ t.run = .ended .halted ∧ t.goodEnd ∧
      t.pc = 0x3001#16) = true := by decide
/-- Program P7a's end state as R11 has it observed: PC and COND belong to the register file. -/
theorem test_observe : nextIs (step (stateOf 0x3000#16 0x8000#16 [] []))
    (fun t => t.observe.pc = 0x3001#16 ∧ t.observe.cond = .zero ∧ t.observe.output = [] ∧
      t.observe.run = .ended (.fatalReservedOpcode 8#4)) = true := by decide
theorem test_trap_unknown : nextIs (step (stateOf 0x3000#16 0xF01F#16 [] []))
    (fun t => t.run = .ended (.fatalUnknownTrap 0x1F#8) ∧ t.pc = 0x3001#16 ∧ t.output = []) = true := by decide
theorem test_reserved8 : nextIs (step (stateOf 0x3000#16 0x8000#16 [] []))
    (fun t => t.run = .ended (.fatalReservedOpcode 8#4) ∧ t.pc = 0x3001#16 ∧ t.regs = RegFile.reset ∧
      t.cond = .zero) = true := by decide
theorem test_reserved13 : nextIs (step (stateOf 0x3000#16 0xD123#16 [] []))
    (fun t => t.run = .ended (.fatalReservedOpcode 13#4) ∧ ¬ t.goodEnd) = true := by decide

/-! ## The device pair (2.10) -/

theorem test_poll_without_input : (withInput [] [false] (stateOf 0x3000#16 0#16 [] [(0xFE00#16, 0x8000#16)])).memRead
      0xFE00#16 = (0x0000#16, withInput [] [] (stateOf 0x3000#16 0#16 [] [])) := by decide
theorem test_poll_answered_no : ((withInput [0x61#8] [false] State.reset).memRead 0xFE00#16).1 = 0x0000#16 ∧
    ((withInput [0x61#8] [false] State.reset).memRead 0xFE00#16).2.kbd.input = [0x61#8] := by decide

/-! ## The loader (2.11) -/

def cellsAfter (image : List Byte) : Option (List Cell) :=
  match boot (some image) with
  | .ok s => some s.mem.cells
  | .error _ => none

theorem test_load : cellsAfter [0x30, 0x00, 0x10, 0x21, 0xF0, 0x25] = some [(0x3000, 0x1021#16), (0x3001, 0xF025#16)] := by
  decide
theorem test_load_odd_byte : cellsAfter [0x30, 0x00, 0x12, 0x34, 0x56] = some [(0x3000, 0x1234#16)] := by decide
theorem test_load_is_capped : cellsAfter [0xFF, 0xFF, 0x00, 0x01, 0x00, 0x02, 0x00, 0x03] = some [(0xFFFF, 0x0001#16)] := by
  decide
theorem test_load_origin_0 : cellsAfter [0x00, 0x00, 0xAA, 0xAA, 0xBB, 0xBB] = some [] := by decide
theorem test_load_no_origin : cellsAfter [0x30] = none := by decide

/-! ## The host's entry: an instruction placed where the next step fetches -/

theorem test_withFetchWord : nextIs (step (State.reset.withFetchWord 16 0x1021))
    (fun t => t.reg .r0 = 0x0001#16 ∧ t.pc = 0x3001#16) = true := by decide

/-! ## Witnesses: data that meet the hypotheses of each statement that has any, clause by clause -/

theorem witness_DecodeOfEncodeIsTheInstruction :
    (Instr.trapUnknown 0x26#8).wellFormed = true ∧ (Instr.addImm .r7 .r0 0x1F#5).wellFormed = true := by decide

theorem witness_IgnoredBitsDoNotChangeDecoding :
    (0x1042#16 ^^^ 0x105A#16) &&& usedBits (decode 0x1042#16) = 0x0000#16 ∧
      (0x9040#16 ^^^ 0x907F#16) &&& usedBits (decode 0x9040#16) = 0x0000#16 := by decide

/-- N = 1, 5 and 15, the largest value with top bit 0 and the smallest with top bit 1. -/
theorem witness_SignExtensionLaw :
    (0x0000#16).toNat % 2 ^ 1 < 2 ^ (1 - 1) ∧ 2 ^ (1 - 1) ≤ (0x0001#16).toNat % 2 ^ 1 ∧
      (0x000F#16).toNat % 2 ^ 5 < 2 ^ (5 - 1) ∧ 2 ^ (5 - 1) ≤ (0x0010#16).toNat % 2 ^ 5 ∧
      (0x3FFF#16).toNat % 2 ^ 15 < 2 ^ (15 - 1) ∧ 2 ^ (15 - 1) ≤ (0x4000#16).toNat % 2 ^ 15 := by decide

/-- 0x0000; 0x8000 and 0xFFFF; 0x0001 and 0x7FFF. -/
theorem witness_FlagUpdateHasThreeCases :
    State.reset.reg .r3 = 0x0000#16 ∧ 0x8000 ≤ ((State.reset.setReg .r3 0x8000#16).reg .r3).toNat ∧
      0x8000 ≤ ((State.reset.setReg .r3 0xFFFF#16).reg .r3).toNat ∧
      0x0001 ≤ ((State.reset.setReg .r3 0x0001#16).reg .r3).toNat ∧
      ((State.reset.setReg .r3 0x7FFF#16).reg .r3).toNat ≤ 0x7FFF ∧
      0x0001 ≤ ((State.reset.setReg .r3 0x7FFF#16).reg .r3).toNat := by decide

theorem witness_AddRegisterForm : (0x105A#16).extractLsb' 12 4 = Config.opcodeBits .add ∧
    (0x105A#16).getLsbD 5 = false ∧ (0x105A#16).extractLsb' 9 3 = Reg.r0.bits ∧
    (0x105A#16).extractLsb' 6 3 = Reg.r1.bits ∧ (0x105A#16).extractLsb' 0 3 = Reg.r2.bits := by decide
theorem witness_AddImmediateForm : (0x1EF0#16).extractLsb' 12 4 = Config.opcodeBits .add ∧
    (0x1EF0#16).getLsbD 5 = true ∧ (0x1EF0#16).extractLsb' 9 3 = Reg.r7.bits ∧
    (0x1EF0#16).extractLsb' 6 3 = Reg.r3.bits ∧ (0x1EF0#16).extractLsb' 0 5 = 0b10000#5 := by decide
theorem witness_AndRegisterForm : (0x5042#16).extractLsb' 12 4 = Config.opcodeBits .and ∧
    (0x5042#16).getLsbD 5 = false ∧ (0x5042#16).extractLsb' 9 3 = Reg.r0.bits ∧
    (0x5042#16).extractLsb' 6 3 = Reg.r1.bits ∧ (0x5042#16).extractLsb' 0 3 = Reg.r2.bits := by decide
theorem witness_AndImmediateForm : (0x502F#16).extractLsb' 12 4 = Config.opcodeBits .and ∧
    (0x502F#16).getLsbD 5 = true ∧ (0x502F#16).extractLsb' 9 3 = Reg.r0.bits ∧
    (0x502F#16).extractLsb' 6 3 = Reg.r0.bits ∧ (0x502F#16).extractLsb' 0 5 = 0b01111#5 := by decide
theorem witness_NotComplementsItsSource : (0x907F#16).extractLsb' 12 4 = Config.opcodeBits .not ∧
    (0x907F#16).extractLsb' 9 3 = Reg.r0.bits ∧ (0x907F#16).extractLsb' 6 3 = Reg.r1.bits := by decide
theorem witness_BranchTakenOrNot : (0x0BFE#16).extractLsb' 12 4 = Config.opcodeBits .br ∧
    (0x0BFE#16).getLsbD 11 = true ∧ (0x0BFE#16).getLsbD 10 = false ∧ (0x0BFE#16).getLsbD 9 = true ∧
    (0x0BFE#16).extractLsb' 0 9 = 0x1FE#9 := by decide
theorem witness_JumpThroughARegister : (0xC1C0#16).extractLsb' 12 4 = Config.opcodeBits .jmp ∧
    (0xC1C0#16).extractLsb' 6 3 = Reg.r7.bits := by decide
theorem witness_JsrLinksAndBranches : (0x4C00#16).extractLsb' 12 4 = Config.opcodeBits .jsr ∧
    (0x4C00#16).getLsbD 11 = true ∧ (0x4C00#16).extractLsb' 0 11 = 0x400#11 := by decide
/-- BaseR = R7 and another register. -/
theorem witness_JsrrLinksBeforeItReads : (0x41C0#16).extractLsb' 12 4 = Config.opcodeBits .jsr ∧
    (0x41C0#16).getLsbD 11 = false ∧ (0x41C0#16).extractLsb' 6 3 = Reg.r7.bits ∧
    (0x4080#16).extractLsb' 12 4 = Config.opcodeBits .jsr ∧ (0x4080#16).getLsbD 11 = false ∧
    (0x4080#16).extractLsb' 6 3 = Reg.r2.bits := by decide
theorem witness_LoadPcRelative : (0x2002#16).extractLsb' 12 4 = Config.opcodeBits .ld ∧
    (0x2002#16).extractLsb' 9 3 = Reg.r0.bits ∧ (0x2002#16).extractLsb' 0 9 = 2#9 := by decide
/-- A word; a state whose pointer cell lies beside the status address (0xFDFF), and whose pointer is not it. -/
theorem witness_LoadIndirect : (0xA001#16).extractLsb' 12 4 = Config.opcodeBits .ldi ∧
    (0xA001#16).extractLsb' 9 3 = Reg.r0.bits ∧ (0xA001#16).extractLsb' 0 9 = 1#9 ∧
    (0xFDFE#16) + sext 1#9 ≠ Config.kbsrAddr ∧
    (stateOf 0xFDFE#16 0#16 [] [(0xFDFF#16, 0xFE01#16)]).cell ((0xFDFE#16) + sext 1#9) ≠ Config.kbsrAddr := by decide
theorem witness_LoadBaseOffset : (0x6460#16).extractLsb' 12 4 = Config.opcodeBits .ldr ∧
    (0x6460#16).extractLsb' 9 3 = Reg.r2.bits ∧ (0x6460#16).extractLsb' 6 3 = Reg.r1.bits ∧
    (0x6460#16).extractLsb' 0 6 = 0b100000#6 := by decide
theorem witness_LoadEffectiveAddress : (0xE1FF#16).extractLsb' 12 4 = Config.opcodeBits .lea ∧
    (0xE1FF#16).extractLsb' 9 3 = Reg.r0.bits ∧ (0xE1FF#16).extractLsb' 0 9 = 0x1FF#9 := by decide
theorem witness_StorePcRelative : (0x3202#16).extractLsb' 12 4 = Config.opcodeBits .st ∧
    (0x3202#16).extractLsb' 9 3 = Reg.r1.bits ∧ (0x3202#16).extractLsb' 0 9 = 2#9 := by decide
theorem witness_StoreIndirect : (0xB201#16).extractLsb' 12 4 = Config.opcodeBits .sti ∧
    (0xB201#16).extractLsb' 9 3 = Reg.r1.bits ∧ (0xB201#16).extractLsb' 0 9 = 1#9 ∧
    (0xFDFE#16) + sext 1#9 ≠ Config.kbsrAddr := by decide
theorem witness_StoreBaseOffset : (0x7A7F#16).extractLsb' 12 4 = Config.opcodeBits .str ∧
    (0x7A7F#16).extractLsb' 9 3 = Reg.r5.bits ∧ (0x7A7F#16).extractLsb' 6 3 = Reg.r1.bits ∧
    (0x7A7F#16).extractLsb' 0 6 = 0b111111#6 := by decide

/-- The character 0x00 and another. -/
theorem witness_GetcTakesOneCharacter : (0xF020#16).extractLsb' 12 4 = Config.opcodeBits .trap ∧
    (0xF020#16).extractLsb' 0 8 = Config.trapVector .getc ∧
    (withInput [0x00#8] [] State.reset).kbd.input = 0x00#8 :: [] ∧
    (withInput [0xFF#8, 0x61#8] [] State.reset).kbd.input = 0xFF#8 :: [0x61#8] := by decide
theorem witness_InPromptsTakesAndEchoes : (0xF023#16).extractLsb' 12 4 = Config.opcodeBits .trap ∧
    (0xF023#16).extractLsb' 0 8 = Config.trapVector .inp ∧
    (withInput [0x78#8] [] State.reset).kbd.input = 0x78#8 :: [] := by decide
theorem witness_BlockingReadAtTheEndOfInput : State.reset.kbd.input = [] ∧ State.reset.kbd.ended = true := by decide
theorem witness_BlockingReadWaitsForInput :
    (withInput [] [] State.reset).kbd.input = [] ∧ (withInput [] [] State.reset).kbd.ended = false := by decide
theorem witness_OutWritesTheLowByteOfR0 : (0xF021#16).extractLsb' 12 4 = Config.opcodeBits .trap ∧
    (0xF021#16).extractLsb' 0 8 = Config.trapVector .out := by decide

/-- The string "HI" of 95_test_vectors.md S7, ending right below the status address. -/
def stringState : State := stateOf 0x3000#16 0xF022#16 [(.r0, 0xFDFD#16)] [(0xFDFD#16, 0x0048#16), (0xFDFE#16, 0x6549#16)]

/-- The hypotheses on state and string that PUTS and PUTSP share: that string, and the empty one. -/
theorem witness_PutsWritesATerminatedString : (0xF022#16).extractLsb' 12 4 = Config.opcodeBits .trap ∧
    (0xF022#16).extractLsb' 0 8 = Config.trapVector .puts ∧
    (∀ k, k < [0x0048#16, 0x6549#16].length → [0x0048#16, 0x6549#16].getD k 0 ≠ 0x0000#16 ∧
      stringState.cell (stringState.reg .r0 + BitVec.ofNat 16 k) = [0x0048#16, 0x6549#16].getD k 0) ∧
    stringState.cell (stringState.reg .r0 + BitVec.ofNat 16 [0x0048#16, 0x6549#16].length) = 0x0000#16 ∧
    (∀ k, k ≤ [0x0048#16, 0x6549#16].length → stringState.reg .r0 + BitVec.ofNat 16 k ≠ Config.kbsrAddr) ∧
    State.reset.cell (State.reset.reg .r0 + BitVec.ofNat 16 ([] : List Word).length) = 0x0000#16 := by decide
theorem witness_PutspWritesATerminatedString : (0xF024#16).extractLsb' 12 4 = Config.opcodeBits .trap ∧
    (0xF024#16).extractLsb' 0 8 = Config.trapVector .putsp ∧
    (∀ k, k < [0x0048#16, 0x6549#16].length → [0x0048#16, 0x6549#16].getD k 0 ≠ 0x0000#16 ∧
      stringState.cell (stringState.reg .r0 + BitVec.ofNat 16 k) = [0x0048#16, 0x6549#16].getD k 0) ∧
    stringState.cell (stringState.reg .r0 + BitVec.ofNat 16 [0x0048#16, 0x6549#16].length) = 0x0000#16 ∧
    (∀ k, k ≤ [0x0048#16, 0x6549#16].length → stringState.reg .r0 + BitVec.ofNat 16 k ≠ Config.kbsrAddr) := by decide

/-- A string that runs over the status address, where the poll finds one character and then none. -/
def deviceString : State :=
  withInput [0x61#8] [true] (stateOf 0x3000#16 0xF022#16 [(.r0, 0xFDFF#16)] [(0xFDFF#16, 0x0041#16)])

theorem witness_StringRoutinesAreTheSpecsLoops :
    (∃ t, exec .trapPuts deviceString = .next t) ∧
      nextIs (exec .trapPuts deviceString) (fun t => t.output = [0x41#8, 0x00#8] ∧ t.kbd.input = []) = true ∧
      (∃ t, exec .trapPutsp deviceString = .next t) ∧
      nextIs (exec .trapPutsp deviceString) (fun t => t.output = [0x41#8, 0x00#8, 0x80#8] ∧ t.kbd.input = []) = true :=
  ⟨(exists_of_nextIs (p := fun _ => true) (by decide)).imp fun _ h => h.1, by decide,
    (exists_of_nextIs (p := fun _ => true) (by decide)).imp fun _ h => h.1, by decide⟩

theorem witness_HaltEndsTheRun : (0xFF25#16).extractLsb' 12 4 = Config.opcodeBits .trap ∧
    (0xFF25#16).extractLsb' 0 8 = Config.trapVector .halt ∧ State.reset.run = .running ∧
    ∃ t, exec .trapHalt State.reset = .next t ∧ t.run = .ended .halted :=
  ⟨by decide, by decide, rfl, _, rfl, rfl⟩
/-- The vectors beside the six. -/
theorem witness_UnknownTrapIsFatal : (0xF01F#16).extractLsb' 12 4 = Config.opcodeBits .trap ∧
    (0xF01F#16).extractLsb' 0 8 = 0x1F#8 ∧ Config.trapRoutineOf 0x1F#8 = none ∧
    (0xF026#16).extractLsb' 0 8 = 0x26#8 ∧ Config.trapRoutineOf 0x26#8 = none := by decide

/-- A fetch from the status address: the poll makes the fetched word 0x0061 | 0x8000 = 0x8061, opcode 8. -/
def fetchAtStatus : State := withInput [0x61#8] [true] (stateOf 0xFE00#16 0x0061#16 [] [])

theorem witness_ReservedOpcodeIsFatal :
    (stateOf 0x3000#16 0x8000#16 [] []).run = .running ∧
      ((stateOf 0x3000#16 0x8000#16 [] []).memRead 0x3000#16).1.extractLsb' 12 4 = Config.opcodeBits .reserved8 ∧
      ((stateOf 0x3000#16 0xDFFF#16 [] []).memRead 0x3000#16).1.extractLsb' 12 4 = Config.opcodeBits .reserved13 ∧
      (stateOf 0x3000#16 0xDFFF#16 [] []).pc ≠ Config.kbsrAddr ∧ fetchAtStatus.run = .running ∧
      fetchAtStatus.pc = Config.kbsrAddr ∧
      (fetchAtStatus.memRead fetchAtStatus.pc).1.extractLsb' 12 4 = Config.opcodeBits .reserved8 := by decide

/-- A plain state, a state at the status address, and a step whose instruction writes no pc. -/
theorem witness_StepRunsTheDecodedInstruction :
    (stateOf 0x3000#16 0x1021#16 [] []).run = .running ∧ (stateOf 0x3000#16 0x1021#16 [] []).pc ≠ Config.kbsrAddr ∧
      fetchAtStatus.run = .running ∧ (∃ t, step (stateOf 0x3000#16 0x1021#16 [] []) = .next t) ∧
      writesPc (decode ((stateOf 0x3000#16 0x1021#16 [] []).memRead 0x3000#16).1) = false :=
  ⟨by decide, by decide, by decide, (exists_of_nextIs (p := fun _ => true) (by decide)).imp fun _ h => h.1, by decide⟩

theorem witness_EndedRunHasNoStep : (State.reset.raise (.unknownTrap 0xFF#8)).run = .ended (.fatalUnknownTrap 0xFF#8) := by
  decide

/-- An instruction that writes no pc; a BR not taken; a BR taken. -/
theorem witness_PcWrittenOnlyByControlTransfers :
    (∃ t, step (stateOf 0x3000#16 0x1021#16 [] []) = .next t) ∧
      writesPc (decode ((stateOf 0x3000#16 0x1021#16 [] []).memRead 0x3000#16).1) = false ∧
      (∃ t, step (stateOf 0x3000#16 0x0A05#16 [] []) = .next t) ∧
      decode ((stateOf 0x3000#16 0x0A05#16 [] []).memRead 0x3000#16).1 = .br true false true 5#9 ∧
      branchTaken true false true (stateOf 0x3000#16 0x0A05#16 [] []).cond = false ∧
      (∃ t, step (stateOf 0x3000#16 0x0405#16 [] []) = .next t) ∧
      decode ((stateOf 0x3000#16 0x0405#16 [] []).memRead 0x3000#16).1 = .br false true false 5#9 ∧
      branchTaken false true false (stateOf 0x3000#16 0x0405#16 [] []).cond = true :=
  ⟨(exists_of_nextIs (p := fun _ => true) (by decide)).imp fun _ h => h.1, by decide,
    (exists_of_nextIs (p := fun _ => true) (by decide)).imp fun _ h => h.1, by decide, by decide,
    (exists_of_nextIs (p := fun _ => true) (by decide)).imp fun _ h => h.1, by decide, by decide⟩

/-- The words 0x0000 and 0x01FF. -/
theorem witness_WordsBelow200DoNothing : State.reset.run = .running ∧
    (State.reset.memRead State.reset.pc).1.toNat < 0x0200 ∧
    ((stateOf 0x3000#16 0x01FF#16 [] []).memRead 0x3000#16).1.toNat < 0x0200 := by decide

theorem witness_FetchSeesTheLatestStore : State.reset.run = .running ∧ State.reset.pc ≠ Config.kbsrAddr := by decide

/-- An instruction that writes a register, one that writes none. -/
theorem witness_OnlyTheListedRegistersAreWritten :
    (∃ t, exec (.addImm .r1 .r0 5#5) State.reset = .next t) ∧ ∃ t, exec (.st .r1 5#9) State.reset = .next t :=
  ⟨⟨_, rfl⟩, _, rfl⟩
/-- An instruction that sets COND, one that does not. -/
theorem witness_CondFollowsTheListedWrites :
    (∃ t, exec (.lea .r1 5#9) State.reset = .next t) ∧ flagReg (.lea .r1 5#9) = some .r1 ∧
      (∃ t, exec (.jsr 5#11) State.reset = .next t) ∧ flagReg (.jsr 5#11) = none :=
  ⟨⟨_, rfl⟩, rfl, ⟨_, rfl⟩, rfl⟩
/-- A store that reads nothing from the status address; a load that reads nothing from it. -/
theorem witness_CellsChangeOnlyByStoresAndPolls :
    (∃ t, exec (.sti .r1 5#9) State.reset = .next t) ∧ storeAddress (.sti .r1 5#9) State.reset = some 0x0000#16 ∧
      Config.kbsrAddr ∉ readAddresses (.sti .r1 5#9) State.reset ∧
      (∃ t, exec (.ldr .r1 .r0 5#6) State.reset = .next t) ∧ storeAddress (.ldr .r1 .r0 5#6) State.reset = none ∧
      Config.kbsrAddr ∉ readAddresses (.ldr .r1 .r0 5#6) State.reset :=
  ⟨⟨_, rfl⟩, by decide, by decide, ⟨_, rfl⟩, by decide, by decide⟩
/-- A step that takes input by its fetch's poll, a step that writes output. -/
theorem witness_InputFromTheFrontOutputAtTheEnd :
    (∃ t, step fetchAtStatus = .next t) ∧
      nextIs (step fetchAtStatus) (fun t => fetchAtStatus.kbd.input = [0x61#8] ∧ t.kbd.input = []) = true ∧
      ∃ t, step (stateOf 0x3000#16 0xF021#16 [] []) = .next t :=
  ⟨(exists_of_nextIs (p := fun _ => true) (by decide)).imp fun _ h => h.1, by decide,
    (exists_of_nextIs (p := fun _ => true) (by decide)).imp fun _ h => h.1⟩
theorem witness_RunEndsInExactlyThreeWays :
    (∃ t, step (stateOf 0x3000#16 0xF025#16 [] []) = .next t ∧ t.run = .ended .halted) ∧
      (∃ t, step (stateOf 0x3000#16 0x8000#16 [] []) = .next t ∧ t.run = .ended (.fatalReservedOpcode 8#4)) ∧
      (∃ t, step (stateOf 0x3000#16 0xD000#16 [] []) = .next t ∧ t.run = .ended (.fatalReservedOpcode 13#4)) ∧
      ∃ t, step (stateOf 0x3000#16 0xF000#16 [] []) = .next t ∧ t.run = .ended (.fatalUnknownTrap 0x00#8) :=
  ⟨(exists_of_nextIs (p := fun t => t.run = .ended .halted) (by decide)).imp fun _ h => ⟨h.1, of_decide_eq_true h.2⟩,
    (exists_of_nextIs (p := fun t => t.run = .ended (.fatalReservedOpcode 8#4)) (by decide)).imp
      fun _ h => ⟨h.1, of_decide_eq_true h.2⟩,
    (exists_of_nextIs (p := fun t => t.run = .ended (.fatalReservedOpcode 13#4)) (by decide)).imp
      fun _ h => ⟨h.1, of_decide_eq_true h.2⟩,
    (exists_of_nextIs (p := fun t => t.run = .ended (.fatalUnknownTrap 0x00#8)) (by decide)).imp
      fun _ h => ⟨h.1, of_decide_eq_true h.2⟩⟩
/-- GETC with a character, GETC at the end of the input, an instruction that needs neither. -/
theorem witness_EveryInstructionCompletes :
    ((withInput [0x61#8] [] State.reset).kbd.input ≠ [] ∨ (withInput [0x61#8] [] State.reset).kbd.ended = true) ∧
      (State.reset.kbd.input ≠ [] ∨ State.reset.kbd.ended = true) ∧
      ¬ (Instr.trapPuts = .trapGetc ∨ Instr.trapPuts = .trapIn) := by decide
theorem witness_StepKeepsTheInvariant :
    (stateOf 0x3000#16 0x3202#16 [(.r1, 0xBEEF#16)] []).Inv ∧
      ∃ t, step (stateOf 0x3000#16 0x3202#16 [(.r1, 0xBEEF#16)] []) = .next t :=
  ⟨⟨by decide, by decide⟩, (exists_of_nextIs (p := fun _ => true) (by decide)).imp fun _ h => h.1⟩

/-- A poll that finds a character, one answered no, one answered yes with nothing to take. -/
theorem witness_StatusReadPolls :
    (withInput [0x6B#8] [true] State.reset).kbd.poll = (some 0x6B#8, (withInput [] [] State.reset).kbd) ∧
      (withInput [0x6B#8] [false] State.reset).kbd.poll = (none, (withInput [0x6B#8] [] State.reset).kbd) ∧
      (withInput [] [true] State.reset).kbd.poll = (none, (withInput [] [] State.reset).kbd) := by decide
theorem witness_OtherReadsHaveNoSideEffect : 0xFDFF#16 ≠ Config.kbsrAddr ∧ 0xFE01#16 ≠ Config.kbsrAddr := by decide
theorem witness_StatusReadTwice :
    (withInput [] [false, false] State.reset).kbd.poll.1 = none ∧
      ((withInput [] [false, false] State.reset).memRead Config.kbsrAddr).2.kbd.poll.1 = none ∧
      (withInput [0x61#8, 0x62#8] [true, true] State.reset).kbd.poll.1 ≠ none ∧
      ((withInput [0x61#8, 0x62#8] [true, true] State.reset).memRead Config.kbsrAddr).2.kbd.poll.1 ≠ none := by decide
theorem witness_PollAnswerIsTheEnvironments :
    (withInput [0x6B#8] [true] State.reset).kbd.answers = true :: [] ∧
      (withInput [0x6B#8] [true] State.reset).kbd.poll = (some 0x6B#8, (withInput [] [] State.reset).kbd) ∧
      (withInput [0x6B#8] [false] State.reset).kbd.poll = (none, (withInput [0x6B#8] [] State.reset).kbd) := by decide
/-- Two memories written in different orders, one of them with a cell written and cleared again. -/
theorem witness_MemoriesThatReadAlikeAreEqual :
    let m := (State.reset.mem.write 0xFFFF#16 1#16).write 0x0000#16 2#16
    let m' := ((State.reset.mem.write 0x0000#16 2#16).write 0x4000#16 3#16).write 0xFFFF#16 1#16 |>.write 0x4000#16 0#16
    m.wf = true ∧ m'.wf = true ∧ ∀ a, m.read a = m'.read a :=
  ⟨by decide, by decide, fun _ => congrArg (fun m => Memory.read m _) (by decide)⟩

/-- An image with one payload Word at the last address, and one at address 0xFFFE whose Words fill the capacity. -/
theorem witness_LoaderWritesThePayload :
    0 < min ([0x00#8, 0x01#8].length / 2) (capacity Config.loaderCapAtOrigin0 (0xFF#8 ++ 0xFF#8)) ∧
      1 < min ([0x00#8, 0x01#8, 0x00#8, 0x02#8, 0x00#8].length / 2)
        (capacity Config.loaderCapAtOrigin0 (0xFF#8 ++ 0xFE#8)) ∧
      ∀ k, k < 1 → 0x0000#16 ≠ (0xFF#8 ++ 0xFF#8 : Word) + BitVec.ofNat 16 k := by decide
theorem witness_LoaderCapacityAndFailures : ([] : List Byte).length < 2 ∧ [0x30#8].length < 2 := by decide

end Sys2Proof.Tests
end

section
/-! What a completed step is, and when it writes pc after the increment (10_state.md R24). -/

namespace Sys2Proof.Machine

/-- A step of a running machine is the fetched word's handler, with pc past that word (41_dispatcher.md R121, R122). -/
theorem step_of_running {s : State} (h : s.run = .running) :
    step s = exec (decode (s.memRead s.pc).1) { (s.memRead s.pc).2 with pc := s.pc + 1 } := by
  simp only [step, h, State.fetch_eq]

/-- An ended run has no step (10_state.md R32). -/
theorem step_of_ended {s : State} {status : RunStatus} (h : s.run = .ended status) : step s = .fault .notRunning := by
  simp only [step, h]

/-- A completed step started in a running machine and ran the fetched word's handler. -/
theorem running_and_exec_of_step_next {s t : State} (h : step s = .next t) :
    s.run = .running ∧ exec (decode (s.memRead s.pc).1) { (s.memRead s.pc).2 with pc := s.pc + 1 } = .next t := by
  cases hr : s.run with
  | running => exact ⟨rfl, step_of_running hr ▸ h⟩
  | ended status => rw [step_of_ended hr] at h; cases h

/-! ## What a trap routine that can wait has done when it completes -/

/-- A completed GETC has taken one answer of the blocking read into R0 (45_trap.md R183). -/
theorem execTrapGetc_next {s t : State} (h : execTrapGetc s = .next t) :
    ∃ c k, s.kbd.getc = some (c, k) ∧ t = (s.setKbd k).writeResult .r0 c.toWord := by
  simp only [execTrapGetc, State.trapEntry_default, State.takeChar_default] at h
  split at h
  · next c k hk => exact ⟨c, k, hk, (Host.Outcome.next.inj h).symm⟩
  · cases h

/-- A completed IN has written its prompt, taken one answer into R0 and echoed it (45_trap.md R186). -/
theorem execTrapIn_next {s t : State} (h : execTrapIn s = .next t) :
    ∃ c k, s.kbd.getc = some (c, k) ∧
      t = (((s.conPuts Config.inPrompt).setKbd k).conPuts [c.echo]).writeResult .r0 c.toWord := by
  simp only [execTrapIn, State.trapEntry_default, State.takeChar_default, State.conPut_eq, State.conFlush_eq,
    State.conPuts_kbd] at h
  split at h
  · next c k hk => exact ⟨c, k, hk, (Host.Outcome.next.inj h).symm⟩
  · cases h

/-- A completed PUTS has run its string loop to the end (45_trap.md R185). -/
theorem execTrapPuts_next {s t : State} (h : execTrapPuts s = .next t) : s.printString putsBytes = some t := by
  simp only [execTrapPuts, State.trapEntry_default, State.conFlush_eq] at h
  split at h
  · next u hu => rw [hu, Host.Outcome.next.inj h]
  · cases h

/-- A completed PUTSP has run its string loop to the end (45_trap.md R187). -/
theorem execTrapPutsp_next {s t : State} (h : execTrapPutsp s = .next t) : s.printString putspBytes = some t := by
  simp only [execTrapPutsp, State.trapEntry_default, State.conFlush_eq] at h
  split at h
  · next u hu => rw [hu, Host.Outcome.next.inj h]
  · cases h

/-! ## pc over a handler -/

/-- The handler of an instruction that R24 does not list leaves pc alone. -/
theorem exec_keeps_pc {i : Instr} {s t : State} (hw : writesPc i = false) (h : exec i s = .next t) : t.pc = s.pc := by
  cases i with
  | br | jmp | jsr | jsrr => simp [writesPc] at hw
  | addReg | addImm | andReg | andImm | notReg | ld | ldi | ldr | lea | st | sti | str =>
    obtain rfl := Host.Outcome.next.inj h
    simp [State.indirect]
  | reserved8 | reserved13 | trapUnknown | trapOut | trapHalt =>
    obtain rfl := Host.Outcome.next.inj h
    simp
  | trapGetc => obtain ⟨c, k, -, rfl⟩ := execTrapGetc_next h; simp
  | trapIn => obtain ⟨c, k, -, rfl⟩ := execTrapIn_next h; simp
  | trapPuts => exact (State.printString_onlyIo (execTrapPuts_next h)).pc
  | trapPutsp => exact (State.printString_onlyIo (execTrapPutsp_next h)).pc

/-- pc after a BR's handler, by the branch test (43_control.md R150). -/
theorem exec_br_pc {n z p : Bool} {off : BitVec 9} {s t : State} (h : exec (.br n z p off) s = .next t) :
    t.pc = if branchTaken n z p s.cond then s.pc + off.signExtend 16 else s.pc := by
  obtain rfl := Host.Outcome.next.inj h
  rw [apply_ite State.pc, State.setPc_pc, State.pcRelative, sext_eq_signExtend]

/-- Settles O39: a completed step is its handler run at pc0 + 1, which only a control transfer writes again. -/
theorem pcWrittenOnlyByControlTransfers : Obligations.PcWrittenOnlyByControlTransfers := by
  intro s t h
  obtain ⟨-, hexec⟩ := running_and_exec_of_step_next h
  have pc_of_br {n z p off} (hd : decode (s.memRead s.pc).1 = .br n z p off) :
      t.pc = if branchTaken n z p s.cond then s.pc + 1 + off.signExtend 16 else s.pc + 1 := by
    rw [hd] at hexec
    simpa using exec_br_pc hexec
  refine ⟨hexec, fun hw => exec_keeps_pc hw hexec, fun n z p off hd hnot => ?_, fun n z p off hd htaken => ?_⟩
  · simp [pc_of_br hd, hnot]
  · simp [pc_of_br hd, htaken]

end Sys2Proof.Machine
end

section
/-! Memory and the device pair: a store, and what one read of the status address finds (20_memory.md R50 to R54, R59). -/

namespace Sys2Proof.Machine

/-- A store as a whole (20_memory.md R54, R55). -/
theorem State.memWrite_stored (a v : Word) (s : State) : Stored a v s (s.memWrite a v) where
  value := s.setCell_cell_same a v
  cells b hb := s.setCell_cell_other a b v (List.ne_of_not_mem_cons hb)
  regs := s.memWrite_regs a v
  pc := s.memWrite_pc a v
  cond := s.memWrite_cond a v
  run := s.memWrite_run a v
  kbd := s.memWrite_kbd a v
  output := s.memWrite_output a v

/-- Settles O52. -/
theorem writeIsAPlainStore : Obligations.WriteIsAPlainStore :=
  State.memWrite_stored

/-- The poll of the status address is one poll of the input collaborator, whatever it answers. -/
theorem State.pollStatus_kbd (s : State) : s.pollStatus.kbd = s.kbd.poll.2 := by
  rcases hp : s.kbd.poll with ⟨_ | c, k⟩
  · exact (State.pollStatus_none hp).2.2
  · exact (State.pollStatus_some hp).2.2

/-- Every read of the status address asks the input collaborator once (20_memory.md R50). -/
theorem State.memRead_status_kbd (s : State) : (s.memRead Config.kbsrAddr).2.kbd = s.kbd.poll.2 := by
  rw [State.memRead_snd, State.touch_status, State.pollStatus_kbd]

/-- Settles O51: the data address is one of the addresses that are not the status address. -/
theorem otherReadsHaveNoSideEffect : Obligations.OtherReadsHaveNoSideEffect :=
  fun s => ⟨s.memRead_plain kbdr_ne_kbsr, s.memRead_status_kbd, fun _ ha => s.memRead_plain ha⟩

/-- Input ready shows in bit 15, under both readings of R51. -/
theorem readyStatus_bit15 (m : KbsrReadyWrite) (w : Word) : (readyStatus m w).getLsbD 15 = true := by
  cases m <;> simp [readyStatus]

/-- A read of the status address whose poll answers no returns zero. -/
theorem State.memRead_status_of_no {s : State} (h : s.kbd.poll.1 = none) :
    (s.memRead Config.kbsrAddr).1 = 0x0000#16 := by
  rw [State.memRead_fst, State.touch_status]
  exact (State.pollStatus_none (Prod.ext h rfl)).1

/-- A read of the status address whose poll answers yes shows bit 15 and takes one character (20_memory.md R51, R52). -/
theorem State.memRead_status_of_yes {s : State} (h : s.kbd.poll.1 ≠ none) :
    (s.memRead Config.kbsrAddr).1.getLsbD 15 = true ∧
      ∃ c, s.kbd.input = c :: (s.memRead Config.kbsrAddr).2.kbd.input := by
  obtain ⟨c, hc⟩ := Option.ne_none_iff_exists'.mp h
  have hp : s.kbd.poll = (some c, s.kbd.poll.2) := Prod.ext hc rfl
  refine ⟨?_, c, ?_⟩
  · rw [State.memRead_fst, State.touch_status, (State.pollStatus_some hp).1]
    exact readyStatus_bit15 _ _
  · rw [State.memRead_status_kbd]
    exact Keyboard.poll_some hp

/-- Settles O53: the law of one status read, at the first state and at the state the first read leaves. -/
theorem statusReadTwice : Obligations.StatusReadTwice := by
  intro s
  refine ⟨fun no₁ no₂ => ⟨State.memRead_status_of_no no₁, State.memRead_status_of_no no₂⟩, fun yes₁ yes₂ => ?_⟩
  obtain ⟨bit₁, c, hc⟩ := State.memRead_status_of_yes yes₁
  obtain ⟨bit₂, d, hd⟩ := State.memRead_status_of_yes yes₂
  exact ⟨bit₁, bit₂, c, d, hc.trans (congrArg (c :: ·) hd)⟩

end Sys2Proof.Machine
end

section
/-! Decoding from the fields of a word: which instruction the opcode and operand bits of R81 give, and R92's words. -/

namespace Sys2Proof

/-- ADD, immediate form, by its fields (30_encoding.md R81, OP-IMM). -/
theorem decode_addImm {w : Word} {dr sr1 : Reg} {imm5 : BitVec 5}
    (hop : w.extractLsb' 12 4 = Config.opcodeBits .add) (hmode : w.getLsbD 5 = true)
    (hdr : w.extractLsb' 9 3 = dr.bits) (hsr1 : w.extractLsb' 6 3 = sr1.bits) (himm : w.extractLsb' 0 5 = imm5) :
    decode w = .addImm dr sr1 imm5 := by
  have hmode' : bitAt 5 w = true := hmode
  simp [decode, field, hop, hmode', regAt_of_field hdr, regAt_of_field hsr1, himm]

/-- A TRAP is its vector's routine, whatever ir[11:8] holds (30_encoding.md R81, R85). -/
theorem decode_trap {w : Word} {v : BitVec 8} (hop : w.extractLsb' 12 4 = Config.opcodeBits .trap)
    (hv : w.extractLsb' 0 8 = v) : decode w = decodeTrap v := by
  simp [decode, field, hop, hv]

/-- Opcode 8 is reserved, whatever the twelve bits below it hold (30_encoding.md R87). -/
theorem decode_reserved8 {w : Word} (hop : w.extractLsb' 12 4 = Config.opcodeBits .reserved8) :
    decode w = .reserved8 := by
  simp [decode, field, hop]

/-- The vector of HALT gives HALT (45_trap.md R181). -/
@[simp] theorem decodeTrap_halt : decodeTrap (Config.trapVector .halt) = .trapHalt := by
  simp [decodeTrap]

/-- Settles O1: each of the three words, split at the fields R92 splits it at. -/
theorem sourceWordsDecode : Obligations.SourceWordsDecode := by
  refine ⟨?add, ?halt, ?reserved⟩
  case add => exact decode_addImm (by decide) (by decide) (by decide) (by decide) (by decide)
  case halt => exact (decode_trap (by decide) (by decide)).trans decodeTrap_halt
  case reserved => exact decode_reserved8 (by decide)

end Sys2Proof
end

section
/-! The word utilities: sign extension as a number and as a signed move, and byte swap (40_word_utilities.md R110 to R113). -/

namespace Sys2Proof

/-- The extended field as a number: a set top bit adds the bits above the field (40_word_utilities.md R110). -/
theorem toNat_sext {n : Nat} (f : BitVec n) (hn : n ≤ 16) :
    (sext f).toNat = f.toNat + if 2 ^ (n - 1) ≤ f.toNat then 2 ^ 16 - 2 ^ n else 0 := by
  rw [sext_eq_signExtend, BitVec.toNat_signExtend, BitVec.toNat_setWidth_of_le hn, BitVec.msb_eq_decide]
  simp only [decide_eq_true_eq]

/-- A field whose top bit is 0 keeps its value (40_word_utilities.md R111). -/
theorem toNat_sext_of_lt {n : Nat} {f : BitVec n} (hn : n ≤ 16) (h : f.toNat < 2 ^ (n - 1)) :
    (sext f).toNat = f.toNat := by
  rw [toNat_sext f hn, if_neg (Nat.not_le_of_lt h), Nat.add_zero]

/-- A field whose top bit is 1 gives its value less 2^N, modulo 2^16 (40_word_utilities.md R111). -/
theorem toNat_sext_of_le {n : Nat} {f : BitVec n} (hn : n ≤ 16) (h : 2 ^ (n - 1) ≤ f.toNat) :
    (sext f).toNat = f.toNat + 65536 - 2 ^ n := by
  have fits : 2 ^ n ≤ 2 ^ 16 := Nat.pow_le_pow_right (by decide) hn
  rw [toNat_sext f hn, if_pos h]
  exact (Nat.add_sub_assoc fits _).symm

/-- The signed reading of a field, by the test R111 makes. -/
theorem toInt_eq_ite_toNat_lt {n : Nat} (f : BitVec n) :
    f.toInt = if f.toNat < 2 ^ (n - 1) then (f.toNat : Int) else f.toNat - 2 ^ n := by
  rw [BitVec.toInt_eq_msb_cond, BitVec.msb_eq_decide]
  by_cases h : f.toNat < 2 ^ (n - 1)
  · simp [h]
  · simp [h, Nat.le_of_not_lt h]

/-- Settles O7: the low N bits of the Word are a field, whose extension has the field's signed reading modulo 2^16. -/
theorem signExtensionLaw : Obligations.SignExtensionLaw := by
  intro n v _ hn
  have low : (v.setWidth n).toNat = v.toNat % 2 ^ n := BitVec.toNat_setWidth n v
  rw [← low]
  refine ⟨toNat_sext_of_lt (by omega), toNat_sext_of_le (by omega), fun w => ?_⟩
  have signed : signExtend v n = BitVec.ofInt 16 (v.setWidth n).toInt := sext_eq_signExtend _
  rw [BitVec.add_comm, signed, toInt_eq_ite_toNat_lt, low]
  norm_cast

/-- A Word is its high byte followed by its low byte. -/
theorem highByte_append_lowByte (x : Word) : highByte x ++ lowByte x = x :=
  BitVec.extractLsb'_append_extractLsb' (w := 8) (len := 8)

/-- Byte swap exchanges the two bytes of a Word (40_word_utilities.md R112). -/
theorem bswap_append (hi lo : Byte) : bswap (hi ++ lo) = lo ++ hi :=
  Machine.imageWord_eq_append lo hi

/-- Settles O8: a Word is two bytes, and exchanging them twice puts each back. -/
theorem byteSwapTwiceIsTheIdentity : Obligations.ByteSwapTwiceIsTheIdentity := by
  intro x
  rw [← highByte_append_lowByte x, bswap_append, bswap_append]

end Sys2Proof
end

section
/-! The dispatcher's order inside a step, and the end of a run on a reserved opcode (41_dispatcher.md R122, R124). -/

namespace Sys2Proof.Machine

/-- A step whose fetch is off the status address polls nothing: the handler of the word in mem[pc] starts with pc past
that word and everything else as before (41_dispatcher.md R122, 20_memory.md R58). -/
theorem step_of_running_plain {s : State} (h : s.run = .running) (ha : s.pc ≠ Config.kbsrAddr) :
    step s = exec (decode (s.cell s.pc)) { s with pc := s.pc + 1 } := by
  rw [step_of_running h, State.memRead_plain ha]

/-- Settles O37: a running step is its fetch, its increment and its handler, and only a listed handler writes pc again. -/
theorem stepRunsTheDecodedInstruction : Obligations.StepRunsTheDecodedInstruction := by
  intro s hrun
  refine ⟨step_of_running hrun, step_of_running_plain hrun, fun t ht hw => ?_⟩
  obtain ⟨-, hexec⟩ := running_and_exec_of_step_next ht
  exact exec_keeps_pc hw hexec

/-- Opcode 13 is reserved, whatever the twelve bits below it hold (30_encoding.md R87). -/
theorem decode_reserved13 {w : Word} (hop : w.extractLsb' 12 4 = Config.opcodeBits .reserved13) :
    decode w = .reserved13 := by
  simp [decode, field, hop]

/-- The handler of opcode 8 raises ReservedOpcode(8): it ends the run and changes nothing else (41_dispatcher.md R124). -/
theorem exec_reserved8 (s : State) :
    exec .reserved8 s = .next { s with run := .ended (.fatalReservedOpcode (Config.opcodeBits .reserved8)) } := rfl

/-- The handler of opcode 13 raises ReservedOpcode(13), likewise. -/
theorem exec_reserved13 (s : State) :
    exec .reserved13 s = .next { s with run := .ended (.fatalReservedOpcode (Config.opcodeBits .reserved13)) } := rfl

/-- The handler of a word with a reserved opcode raises ReservedOpcode(ir[15:12]). -/
theorem exec_decode_of_reserved {w : Word} {op : BitVec 4} (hop : w.extractLsb' 12 4 = op)
    (hres : op = Config.opcodeBits .reserved8 ∨ op = Config.opcodeBits .reserved13) (s : State) :
    exec (decode w) s = .next { s with run := .ended (.fatalReservedOpcode op) } := by
  rcases hres with rfl | rfl
  · rw [decode_reserved8 hop, exec_reserved8]
  · rw [decode_reserved13 hop, exec_reserved13]

/-- Settles O36: the reserved handler, run in the state after the fetch; off the status address that is the state before
it. -/
theorem reservedOpcodeIsFatal : Obligations.ReservedOpcodeIsFatal := by
  refine ⟨fun s => ⟨exec_reserved8 s, exec_reserved13 s⟩, fun s op hrun hop hres => ?_, fun _ => Config.exitFatal_ne_zero⟩
  have hstep : step s = .next { (s.memRead s.pc).2 with pc := s.pc + 1, run := .ended (.fatalReservedOpcode op) } := by
    rw [step_of_running hrun, exec_decode_of_reserved hop hres]
  exact ⟨hstep, fun ha => by rwa [State.memRead_plain ha] at hstep⟩

end Sys2Proof.Machine
end

section
/-! The flag update and the operate instructions: each writes one result with its flags (42_operate.md R140 to R145). -/

namespace Sys2Proof

/-! ## Decoding from the fields of a word -/

section
variable {w : Word} {dr sr sr1 sr2 : Reg} {imm5 : BitVec 5}

/-- ADD, register form, by its fields (30_encoding.md R81, OP-REG). -/
theorem decode_addReg (hop : w.extractLsb' 12 4 = Config.opcodeBits .add) (hmode : w.getLsbD 5 = false)
    (hdr : w.extractLsb' 9 3 = dr.bits) (hsr1 : w.extractLsb' 6 3 = sr1.bits) (hsr2 : w.extractLsb' 0 3 = sr2.bits) :
    decode w = .addReg dr sr1 sr2 := by
  have hmode' : bitAt 5 w = false := hmode
  simp [decode, field, hop, hmode', regAt_of_field hdr, regAt_of_field hsr1, regAt_of_field hsr2]

/-- AND, register form, by its fields (30_encoding.md R81, OP-REG). -/
theorem decode_andReg (hop : w.extractLsb' 12 4 = Config.opcodeBits .and) (hmode : w.getLsbD 5 = false)
    (hdr : w.extractLsb' 9 3 = dr.bits) (hsr1 : w.extractLsb' 6 3 = sr1.bits) (hsr2 : w.extractLsb' 0 3 = sr2.bits) :
    decode w = .andReg dr sr1 sr2 := by
  have hmode' : bitAt 5 w = false := hmode
  simp [decode, field, hop, hmode', regAt_of_field hdr, regAt_of_field hsr1, regAt_of_field hsr2]

/-- AND, immediate form, by its fields (30_encoding.md R81, OP-IMM). -/
theorem decode_andImm (hop : w.extractLsb' 12 4 = Config.opcodeBits .and) (hmode : w.getLsbD 5 = true)
    (hdr : w.extractLsb' 9 3 = dr.bits) (hsr1 : w.extractLsb' 6 3 = sr1.bits) (himm : w.extractLsb' 0 5 = imm5) :
    decode w = .andImm dr sr1 imm5 := by
  have hmode' : bitAt 5 w = true := hmode
  simp [decode, field, hop, hmode', regAt_of_field hdr, regAt_of_field hsr1, himm]

/-- NOT by its fields, whatever ir[5:0] holds (30_encoding.md R81, R84). -/
theorem decode_notReg (hop : w.extractLsb' 12 4 = Config.opcodeBits .not) (hdr : w.extractLsb' 9 3 = dr.bits)
    (hsr : w.extractLsb' 6 3 = sr.bits) : decode w = .notReg dr sr := by
  simp [decode, field, hop, regAt_of_field hdr, regAt_of_field hsr]

end

namespace Machine

/-! ## The flag of a value (42_operate.md R140) -/

/-- Bit 15 is set in the upper half of the Words. -/
theorem getLsbD_15_eq_decide (v : Word) : v.getLsbD 15 = decide (0x8000 ≤ v.toNat) :=
  (BitVec.msb_eq_getLsbD_last v).symm.trans (BitVec.msb_eq_decide v)

/-- The flag of a value, by the value as a number. -/
theorem condOf_eq_ite_toNat (v : Word) :
    condOf v = if v.toNat = 0x0000 then .zero else if 0x8000 ≤ v.toNat then .negative else .positive := by
  have hzero : v = 0x0000#16 ↔ v.toNat = 0x0000 := BitVec.toNat_inj.symm
  simp only [condOf, hzero, getLsbD_15_eq_decide, decide_eq_true_eq]

theorem condOf_of_upper_half {v : Word} (h : 0x8000 ≤ v.toNat) : condOf v = .negative := by
  rw [condOf_eq_ite_toNat, if_neg (by omega), if_pos h]

theorem condOf_of_lower_half {v : Word} (hpos : 0x0001 ≤ v.toNat) (h : v.toNat ≤ 0x7FFF) : condOf v = .positive := by
  rw [condOf_eq_ite_toNat, if_neg (by omega), if_neg (by omega)]

/-- The flag update replaces COND by the flag of the register's value (R140). -/
theorem State.setcc_eq (i : Reg) (s : State) : s.setcc i = { s with cond := condOf (s.reg i) } := rfl

/-- Settles O9: the flag update is the flag of the register's value, by that value's range. -/
theorem flagUpdateHasThreeCases : Obligations.FlagUpdateHasThreeCases := by
  intro i s
  rw [State.setcc_eq]
  exact ⟨fun h => h ▸ rfl, condOf_of_upper_half, condOf_of_lower_half, _, rfl⟩

/-! ## The handlers: one result with its flags -/

theorem exec_addReg (dr sr1 sr2 : Reg) (s : State) :
    exec (.addReg dr sr1 sr2) s = .next (s.writeResult dr (s.reg sr1 + s.reg sr2)) := rfl

theorem exec_andReg (dr sr1 sr2 : Reg) (s : State) :
    exec (.andReg dr sr1 sr2) s = .next (s.writeResult dr (s.reg sr1 &&& s.reg sr2)) := rfl

theorem exec_addImm (dr sr1 : Reg) (imm5 : BitVec 5) (s : State) :
    exec (.addImm dr sr1 imm5) s = .next (s.writeResult dr (s.reg sr1 + imm5.signExtend 16)) := by
  rw [← sext_eq_signExtend]; rfl

theorem exec_andImm (dr sr1 : Reg) (imm5 : BitVec 5) (s : State) :
    exec (.andImm dr sr1 imm5) s = .next (s.writeResult dr (s.reg sr1 &&& imm5.signExtend 16)) := by
  rw [← sext_eq_signExtend]; rfl

theorem exec_notReg (dr sr : Reg) (s : State) :
    exec (.notReg dr sr) s = .next (s.writeResult dr (s.reg sr ^^^ 0xFFFF#16)) := by
  have hxor : s.reg sr ^^^ 0xFFFF#16 = ~~~ s.reg sr := BitVec.xor_allOnes
  rw [hxor]; rfl

/-- An instruction that ends in R[dr] <- v; setcc(dr) completes, and that is all it does. -/
theorem exists_next_wroteResult {i : Instr} {dr : Reg} {v : Word} {s : State}
    (h : exec i s = .next (s.writeResult dr v)) : ∃ t, exec i s = .next t ∧ WroteResult dr v s t :=
  ⟨_, h, s.writeResult_wroteResult dr v⟩

/-- Settles O10. -/
theorem addRegisterForm : Obligations.AddRegisterForm :=
  fun dr sr1 sr2 => ⟨fun _ => decode_addReg, fun s => exists_next_wroteResult (exec_addReg dr sr1 sr2 s)⟩

/-- Settles O11. -/
theorem addImmediateForm : Obligations.AddImmediateForm :=
  fun dr sr1 imm5 => ⟨fun _ => decode_addImm, fun s => exists_next_wroteResult (exec_addImm dr sr1 imm5 s)⟩

/-- Settles O12. -/
theorem andRegisterForm : Obligations.AndRegisterForm :=
  fun dr sr1 sr2 => ⟨fun _ => decode_andReg, fun s => exists_next_wroteResult (exec_andReg dr sr1 sr2 s)⟩

/-- Settles O13. -/
theorem andImmediateForm : Obligations.AndImmediateForm :=
  fun dr sr1 imm5 => ⟨fun _ => decode_andImm, fun s => exists_next_wroteResult (exec_andImm dr sr1 imm5 s)⟩

/-- Settles O14: the complement of a Word is its exclusive or with 0xFFFF. -/
theorem notComplementsItsSource : Obligations.NotComplementsItsSource :=
  fun dr sr => ⟨fun _ => decode_notReg, fun s => exists_next_wroteResult (exec_notReg dr sr s)⟩

end Machine

end Sys2Proof
end

section
/-! The control transfers: BR and JMP write pc alone, JSR and JSRR write R7 and then pc (43_control.md R150 to R153). -/

namespace Sys2Proof

/-! ## Decoding from the fields of a word -/

section
variable {w : Word} {base : Reg}

/-- BR by its fields (30_encoding.md R81). -/
theorem decode_br {n z p : Bool} {off : BitVec 9} (hop : w.extractLsb' 12 4 = Config.opcodeBits .br)
    (hn : w.getLsbD 11 = n) (hz : w.getLsbD 10 = z) (hp : w.getLsbD 9 = p) (hoff : w.extractLsb' 0 9 = off) :
    decode w = .br n z p off := by
  simp [decode, field, bitAt, hop, ← hn, ← hz, ← hp, hoff]

/-- JMP by its fields, whatever ir[11:9] and ir[5:0] hold (30_encoding.md R81, R84). -/
theorem decode_jmp (hop : w.extractLsb' 12 4 = Config.opcodeBits .jmp) (hbase : w.extractLsb' 6 3 = base.bits) :
    decode w = .jmp base := by
  simp [decode, field, hop, regAt_of_field hbase]

/-- JSR by its fields: the opcode it shares with JSRR, and the long flag set (30_encoding.md R81, R85). -/
theorem decode_jsr {off : BitVec 11} (hop : w.extractLsb' 12 4 = Config.opcodeBits .jsr)
    (hlong : w.getLsbD 11 = true) (hoff : w.extractLsb' 0 11 = off) : decode w = .jsr off := by
  have hlong' : bitAt 11 w = true := hlong
  simp [decode, field, hop, hlong', hoff]

/-- JSRR by its fields: the long flag clear, whatever ir[10:9] and ir[5:0] hold (30_encoding.md R81, R84). -/
theorem decode_jsrr (hop : w.extractLsb' 12 4 = Config.opcodeBits .jsr) (hlong : w.getLsbD 11 = false)
    (hbase : w.extractLsb' 6 3 = base.bits) : decode w = .jsrr base := by
  have hlong' : bitAt 11 w = false := hlong
  simp [decode, field, hop, hlong', regAt_of_field hbase]

end

namespace Machine

/-! ## The handlers -/

/-- BR's handler, by the model's branch test (R150). -/
theorem exec_br (n z p : Bool) (off : BitVec 9) (s : State) :
    exec (.br n z p off) s =
      .next (if branchTaken n z p s.cond then { s with pc := s.pc + off.signExtend 16 } else s) := by
  rw [← sext_eq_signExtend]; rfl

theorem exec_jmp (base : Reg) (s : State) : exec (.jmp base) s = .next { s with pc := s.reg base } := rfl

/-- R7 <- pc, then pc <- target: what JSR and JSRR do, each with its own target (R152, R153). -/
def State.linkTo (target : Word) (s : State) : State := (s.setReg .r7 s.pc).setPc target

@[simp] theorem State.linkTo_reg_r7 (target : Word) (s : State) : (s.linkTo target).reg .r7 = s.pc :=
  s.setReg_reg_same .r7 s.pc

theorem State.linkTo_sameRegsBut (target : Word) (s : State) : SameRegsBut [.r7] s (s.linkTo target) :=
  fun r hr => s.setReg_reg_other .r7 r s.pc (List.ne_of_not_mem_cons hr)

/-- JSR links and goes to its PC-relative target. -/
theorem exec_jsr (off : BitVec 11) (s : State) :
    exec (.jsr off) s = .next (s.linkTo (s.pc + off.signExtend 16)) := by
  rw [← sext_eq_signExtend]; rfl

/-- The register file JSRR reads BaseR from already holds the link in R7 (R153). -/
theorem State.reg_of_linked (base : Reg) (s : State) :
    (s.setReg .r7 s.pc).reg base = if base = .r7 then s.pc else s.reg base := by
  split
  · next h => rw [h, State.setReg_reg_same]
  · next h => exact s.setReg_reg_other .r7 base s.pc h

/-- JSRR links and goes to what BaseR holds after that. -/
theorem exec_jsrr (base : Reg) (s : State) :
    exec (.jsrr base) s = .next (s.linkTo (if base = .r7 then s.pc else s.reg base)) := by
  rw [← State.reg_of_linked]; rfl

/-- An instruction that links and goes to a target completes, and that is all it does. -/
theorem exists_next_linked {i : Instr} {target : Word} {s : State} (h : exec i s = .next (s.linkTo target)) :
    ∃ t, exec i s = .next t ∧ t.reg .r7 = s.pc ∧ t.pc = target ∧
      SameRegsBut [.r7] s t ∧ t.cond = s.cond ∧ t.mem = s.mem ∧ t.run = s.run ∧ t.kbd = s.kbd ∧ t.output = s.output :=
  ⟨_, h, s.linkTo_reg_r7 target, rfl, s.linkTo_sameRegsBut target, rfl, rfl, rfl, rfl, rfl⟩

/-- Settles O15: the test on the bits of COND is the three named conditions. -/
theorem branchTakenOrNot : Obligations.BranchTakenOrNot := by
  intro n z p off
  refine ⟨fun _ => decode_br, fun s => ?_⟩
  rw [exec_br]
  simp only [branchTaken_iff]

/-- Settles O16. -/
theorem jumpThroughARegister : Obligations.JumpThroughARegister :=
  fun base => ⟨fun _ => decode_jmp, exec_jmp base⟩

/-- Settles O17. -/
theorem jsrLinksAndBranches : Obligations.JsrLinksAndBranches :=
  fun off => ⟨fun _ => decode_jsr, fun s => exists_next_linked (exec_jsr off s)⟩

/-- Settles O18: R7 already holds the link when BaseR is read. -/
theorem jsrrLinksBeforeItReads : Obligations.JsrrLinksBeforeItReads :=
  fun base => ⟨fun _ => decode_jsrr, fun s => exists_next_linked (exec_jsrr base s)⟩

end Machine

end Sys2Proof
end

section
/-! Loads, LEA and stores: one MemRead into a register with its flags, one address into it, or one plain store
(44_load_store.md R160 to R166). -/

namespace Sys2Proof

/-! ## Decoding from the fields of a word -/

section
variable {w : Word} {dr sr base : Reg} {off : BitVec 9} {off6 : BitVec 6}

/-- LD by its fields (30_encoding.md R81). -/
theorem decode_ld (hop : w.extractLsb' 12 4 = Config.opcodeBits .ld) (hdr : w.extractLsb' 9 3 = dr.bits)
    (hoff : w.extractLsb' 0 9 = off) : decode w = .ld dr off := by
  simp [decode, field, hop, regAt_of_field hdr, hoff]

/-- LDI by its fields (30_encoding.md R81). -/
theorem decode_ldi (hop : w.extractLsb' 12 4 = Config.opcodeBits .ldi) (hdr : w.extractLsb' 9 3 = dr.bits)
    (hoff : w.extractLsb' 0 9 = off) : decode w = .ldi dr off := by
  simp [decode, field, hop, regAt_of_field hdr, hoff]

/-- LDR by its fields (30_encoding.md R81; BaseR is ir[8:6], R82). -/
theorem decode_ldr (hop : w.extractLsb' 12 4 = Config.opcodeBits .ldr) (hdr : w.extractLsb' 9 3 = dr.bits)
    (hbase : w.extractLsb' 6 3 = base.bits) (hoff : w.extractLsb' 0 6 = off6) : decode w = .ldr dr base off6 := by
  simp [decode, field, hop, regAt_of_field hdr, regAt_of_field hbase, hoff]

/-- LEA by its fields (30_encoding.md R81). -/
theorem decode_lea (hop : w.extractLsb' 12 4 = Config.opcodeBits .lea) (hdr : w.extractLsb' 9 3 = dr.bits)
    (hoff : w.extractLsb' 0 9 = off) : decode w = .lea dr off := by
  simp [decode, field, hop, regAt_of_field hdr, hoff]

/-- ST by its fields (30_encoding.md R81; SR is ir[11:9], R82). -/
theorem decode_st (hop : w.extractLsb' 12 4 = Config.opcodeBits .st) (hsr : w.extractLsb' 9 3 = sr.bits)
    (hoff : w.extractLsb' 0 9 = off) : decode w = .st sr off := by
  simp [decode, field, hop, regAt_of_field hsr, hoff]

/-- STI by its fields (30_encoding.md R81; SR is ir[11:9], R82). -/
theorem decode_sti (hop : w.extractLsb' 12 4 = Config.opcodeBits .sti) (hsr : w.extractLsb' 9 3 = sr.bits)
    (hoff : w.extractLsb' 0 9 = off) : decode w = .sti sr off := by
  simp [decode, field, hop, regAt_of_field hsr, hoff]

/-- STR by its fields (30_encoding.md R81; SR is ir[11:9] and BaseR ir[8:6], R82). -/
theorem decode_str (hop : w.extractLsb' 12 4 = Config.opcodeBits .str) (hsr : w.extractLsb' 9 3 = sr.bits)
    (hbase : w.extractLsb' 6 3 = base.bits) (hoff : w.extractLsb' 0 6 = off6) : decode w = .str sr base off6 := by
  simp [decode, field, hop, regAt_of_field hsr, regAt_of_field hbase, hoff]

end

namespace Machine

/-! ## One MemRead into a register -/

/-- R[dr] <- MemRead(a, 1); setcc(dr): the ending of LD, LDI and LDR (R160 to R162). -/
def State.loadFrom (dr : Reg) (a : Word) (s : State) : State := (s.memRead a).2.writeResult dr (s.memRead a).1

theorem State.loadFrom_loadedFrom (dr : Reg) (a : Word) (s : State) : LoadedFrom dr a s (s.loadFrom dr a) :=
  s.memRead_loadedFrom dr a

theorem exec_ld (dr : Reg) (off : BitVec 9) (s : State) :
    exec (.ld dr off) s = .next (s.loadFrom dr (s.pc + sext off)) := rfl

theorem exec_ldr (dr base : Reg) (off : BitVec 6) (s : State) :
    exec (.ldr dr base off) s = .next (s.loadFrom dr (s.reg base + sext off)) := rfl

/-- The data's read starts in the state the pointer's read leaves (R161). -/
theorem exec_ldi (dr : Reg) (off : BitVec 9) (s : State) :
    exec (.ldi dr off) s =
      .next ((s.memRead (s.pc + sext off)).2.loadFrom dr (s.memRead (s.pc + sext off)).1) := rfl

theorem exec_lea (dr : Reg) (off : BitVec 9) (s : State) :
    exec (.lea dr off) s = .next (s.writeResult dr (s.pc + off.signExtend 16)) := by
  rw [← sext_eq_signExtend]; rfl

/-- An instruction that ends in one load completes, and that is all it does. -/
theorem exists_next_loadedFrom {i : Instr} {dr : Reg} {a : Word} {s : State}
    (h : exec i s = .next (s.loadFrom dr a)) : ∃ t, exec i s = .next t ∧ LoadedFrom dr a s t :=
  ⟨_, h, s.loadFrom_loadedFrom dr a⟩

/-- Settles O19. -/
theorem loadPcRelative : Obligations.LoadPcRelative :=
  fun dr off => ⟨fun _ => decode_ld, fun s => exists_next_loadedFrom (exec_ld dr off s)⟩

/-- Settles O21: the address is taken from the registers before the load writes one. -/
theorem loadBaseOffset : Obligations.LoadBaseOffset :=
  fun dr base off => ⟨fun _ => decode_ldr, fun s => exists_next_loadedFrom (exec_ldr dr base off s)⟩

/-- Settles O22: the address is a result like that of an operate instruction. -/
theorem loadEffectiveAddress : Obligations.LoadEffectiveAddress :=
  fun dr off => ⟨fun _ => decode_lea, fun s => exists_next_wroteResult (exec_lea dr off s)⟩

/-! ## A read before a load or a store: the pointer of LDI and STI -/

/-- A MemRead changes at most the two device cells (20_memory.md R50, R53). -/
theorem State.memRead_sameCellsBut (a : Word) (s : State) : SameCellsBut deviceCells s (s.memRead a).2 := by
  intro b hb
  obtain ⟨hstatus, hdata⟩ : b ≠ Config.kbsrAddr ∧ b ≠ Config.kbdrAddr := by simpa [deviceCells] using hb
  exact (s.touch_onlyIo a).cells b hstatus hdata

theorem SameCellsBut.trans {l : List Word} {s t u : State} (h : SameCellsBut l s t) (h' : SameCellsBut l t u) :
    SameCellsBut l s u :=
  fun a ha => (h' a ha).trans (h a ha)

/-- Whatever its address, a load changes at most the two device cells. -/
theorem LoadedFrom.sameCellsBut_deviceCells {dr : Reg} {a : Word} {s t : State} (h : LoadedFrom dr a s t) :
    SameCellsBut deviceCells s t :=
  fun b hb => (State.cell_of_mem h.mem b).trans (s.memRead_sameCellsBut a b hb)

/-- A load off the status address writes the cell's Word as a result and does nothing else. -/
theorem LoadedFrom.wroteResult {dr : Reg} {a : Word} {s t : State} (h : LoadedFrom dr a s t)
    (ha : a ≠ Config.kbsrAddr) : WroteResult dr (s.cell a) s t := by
  obtain ⟨hvalue, hmem, hkbd⟩ := h.plain ha
  have hcond : t.cond = condOf (s.cell a) := by rw [h.cond, State.memRead_plain ha]
  exact ⟨hvalue, hcond, h.regs, h.pc, hmem, h.run, hkbd, h.output⟩

/-- Settles O20: the frame is the data's load after the pointer's read; off the status address the pointer's read leaves
the state as it was. -/
theorem loadIndirect : Obligations.LoadIndirect := by
  intro dr off
  refine ⟨fun _ => decode_ldi, fun s => ⟨_, exec_ldi dr off s, ?_⟩⟩
  generalize s.pc + sext off = a
  have loaded := State.loadFrom_loadedFrom dr (s.memRead a).1 (s.memRead a).2
  refine ⟨loaded, fun r hr => (loaded.regs r hr).trans (s.touch_reg a r), loaded.pc.trans (s.touch_pc a),
    loaded.run.trans (s.touch_run a), loaded.output.trans (s.touch_output a), fun ha => ?plain,
    (s.memRead_sameCellsBut a).trans loaded.sameCellsBut_deviceCells⟩
  case plain =>
    rw [State.memRead_plain ha] at loaded ⊢
    exact ⟨loaded, loaded.wroteResult⟩

/-! ## One plain store -/

theorem exec_st (sr : Reg) (off : BitVec 9) (s : State) :
    exec (.st sr off) s = .next (s.memWrite (s.pc + sext off) (s.reg sr)) := rfl

theorem exec_str (sr base : Reg) (off : BitVec 6) (s : State) :
    exec (.str sr base off) s = .next (s.memWrite (s.reg base + sext off) (s.reg sr)) := rfl

/-- The pointer's read leaves SR alone, so the store writes the Word SR held before it (R165). -/
theorem exec_sti (sr : Reg) (off : BitVec 9) (s : State) :
    exec (.sti sr off) s =
      .next ((s.memRead (s.pc + sext off)).2.memWrite (s.memRead (s.pc + sext off)).1 (s.reg sr)) := by
  rw [← s.touch_reg (s.pc + sext off) sr]; rfl

/-- An instruction that is one store completes, and that is all it does. -/
theorem exists_next_stored {i : Instr} {a v : Word} {s : State} (h : exec i s = .next (s.memWrite a v)) :
    ∃ t, exec i s = .next t ∧ Stored a v s t :=
  ⟨_, h, s.memWrite_stored a v⟩

/-- Settles O23. -/
theorem storePcRelative : Obligations.StorePcRelative :=
  fun sr off => ⟨fun _ => decode_st, fun s => exists_next_stored (exec_st sr off s)⟩

/-- Settles O25. -/
theorem storeBaseOffset : Obligations.StoreBaseOffset :=
  fun sr base off => ⟨fun _ => decode_str, fun s => exists_next_stored (exec_str sr base off s)⟩

/-- Settles O24: the frame is the store after the pointer's read; off the status address the pointer's read leaves the
state as it was. -/
theorem storeIndirect : Obligations.StoreIndirect := by
  intro sr off
  refine ⟨fun _ => decode_sti, fun s => ⟨_, exec_sti sr off s, ?_⟩⟩
  generalize s.pc + sext off = a
  have stored := (s.memRead a).2.memWrite_stored (s.memRead a).1 (s.reg sr)
  refine ⟨stored, stored.regs.trans (s.touch_regs a), stored.pc.trans (s.touch_pc a),
    stored.cond.trans (s.touch_cond a), stored.run.trans (s.touch_run a), stored.output.trans (s.touch_output a),
    fun ha => ?plain, fun b hb => ?cells⟩
  case plain => rwa [State.memRead_plain ha] at stored ⊢
  case cells =>
    obtain ⟨hptr, hdevice⟩ := not_or.mp (mt List.mem_cons.mpr hb)
    exact (stored.cells b (mt List.mem_singleton.mp hptr)).trans (s.memRead_sameCellsBut a b hdevice)

end Machine

end Sys2Proof
end

section
/-! OUT: one byte of R0 to the output collaborator (45_trap.md R184). -/

namespace Sys2Proof

/-- The vector of OUT gives OUT (45_trap.md R181). -/
@[simp] theorem decodeTrap_out : decodeTrap (Config.trapVector .out) = .trapOut := by
  simp [decodeTrap]

/-- OUT by its fields, whatever ir[11:8] holds (30_encoding.md R81, R85). -/
theorem decode_trapOut {w : Word} (hop : w.extractLsb' 12 4 = Config.opcodeBits .trap)
    (hv : w.extractLsb' 0 8 = Config.trapVector .out) : decode w = .trapOut :=
  (decode_trap hop hv).trans decodeTrap_out

namespace Machine

/-- OUT's handler is one write to the console; at the parameters' values neither TRAP's entry nor the flush changes the
state. -/
theorem exec_trapOut (s : State) : exec .trapOut s = .next (s.conPuts [(s.reg .r0).extractLsb' 0 8]) := by
  change execTrapOut s = _
  simp only [execTrapOut, State.trapEntry_default, State.conPut_eq, State.conFlush_eq, lowByte]

/-- Settles O30: a write to the console appends its bytes to the output, and that is all it does. -/
theorem outWritesTheLowByteOfR0 : Obligations.OutWritesTheLowByteOfR0 :=
  ⟨fun _ => decode_trapOut, exec_trapOut⟩

end Machine

end Sys2Proof
end

section
/-! The loader's raw cell writes and their frame (70_reset_and_hazards.md R248, R249). -/

namespace Sys2Proof.Machine

/-- How many payload Words the loader writes: the complete pairs of the stream, up to the capacity. -/
def wordsLoaded (payload : List Byte) (cap : Nat) : Nat := min (payload.length / 2) cap

/-- The k-th payload Word of a stream: its k-th big-endian pair (R246). -/
def payloadWord (payload : List Byte) (k : Nat) : Word := payload.getD (2 * k) 0 ++ payload.getD (2 * k + 1) 0

theorem wordsLoaded_cons_cons (b0 b1 : Byte) (rest : List Byte) (cap : Nat) :
    wordsLoaded (b0 :: b1 :: rest) (cap + 1) = wordsLoaded rest cap + 1 := by
  simp only [wordsLoaded, List.length_cons]
  omega

/-- Nothing is loaded when the stream holds no further pair or the capacity is used up. -/
theorem wordsLoaded_eq_zero {payload : List Byte} {cap : Nat}
    (h : ∀ b0 b1 rest n, payload = b0 :: b1 :: rest → cap = n + 1 → False) : wordsLoaded payload cap = 0 := by
  match payload, cap with
  | [], _ => simp [wordsLoaded]
  | [_], _ => simp [wordsLoaded]
  | _ :: _ :: _, 0 => simp [wordsLoaded]
  | b0 :: b1 :: rest, n + 1 => exact (h b0 b1 rest n rfl rfl).elim

@[simp] theorem payloadWord_cons_cons_zero (b0 b1 : Byte) (rest : List Byte) :
    payloadWord (b0 :: b1 :: rest) 0 = b0 ++ b1 := rfl

@[simp] theorem payloadWord_cons_cons_succ (b0 b1 : Byte) (rest : List Byte) (k : Nat) :
    payloadWord (b0 :: b1 :: rest) (k + 1) = payloadWord rest k := rfl

/-- The address k + 1 past an origin is the address k past the next one. -/
theorem add_ofNat_succ (a : Word) (k : Nat) : a + BitVec.ofNat 16 (k + 1) = a + 1 + BitVec.ofNat 16 k := by
  rw [BitVec.ofNat_add, BitVec.add_comm (BitVec.ofNat 16 k), ← BitVec.add_assoc]
  rfl

/-- Fewer than 2^16 addresses on, an address does not come round again. -/
theorem ne_add_ofNat {k : Nat} (a : Word) (hpos : 0 < k) (hlt : k < Config.memWords) : a ≠ a + BitVec.ofNat 16 k := by
  simp only [Config.memWords] at hlt
  bv_omega

/-- The loader's frame: a cell at none of the addresses it writes is as it was. -/
theorem read_loadWords_other {payload : List Byte} {a b : Word} {cap : Nat} {m : Memory}
    (h : ∀ k, k < wordsLoaded payload cap → b ≠ a + BitVec.ofNat 16 k) :
    (loadWords payload a cap m).read b = m.read b := by
  fun_induction loadWords payload a cap m with
  | case1 b0 b1 rest a cap m ih =>
    rw [wordsLoaded_cons_cons] at h
    have hhead : b ≠ a := by simpa using h 0 (Nat.succ_pos _)
    have htail : ∀ k, k < wordsLoaded rest cap → b ≠ a + 1 + BitVec.ofNat 16 k :=
      fun k hk => add_ofNat_succ a k ▸ h (k + 1) (Nat.succ_lt_succ hk)
    rw [ih htail, Memory.read_write, if_neg hhead]
  | case2 => rfl

/-- The k-th payload Word stands k addresses past the origin: within the address space no later write reaches it. -/
theorem read_loadWords_same {payload : List Byte} {a : Word} {cap k : Nat} {m : Memory} (hcap : cap ≤ Config.memWords)
    (hk : k < wordsLoaded payload cap) :
    (loadWords payload a cap m).read (a + BitVec.ofNat 16 k) = payloadWord payload k := by
  fun_induction loadWords payload a cap m generalizing k with
  | case1 b0 b1 rest a cap m ih =>
    rw [wordsLoaded_cons_cons] at hk
    cases k with
    | zero =>
      have hlater : ∀ j, j < wordsLoaded rest cap → a ≠ a + 1 + BitVec.ofNat 16 j := fun j hj =>
        add_ofNat_succ a j ▸ ne_add_ofNat a (Nat.succ_pos j)
          (Nat.lt_of_lt_of_le (Nat.succ_lt_succ (Nat.lt_of_lt_of_le hj (Nat.min_le_right _ _))) hcap)
      rw [payloadWord_cons_cons_zero, ← imageWord_eq_append, BitVec.add_zero, read_loadWords_other hlater,
        Memory.read_write, if_pos rfl]
    | succ k =>
      rw [add_ofNat_succ, payloadWord_cons_cons_succ]
      exact ih (Nat.le_of_succ_le hcap) (Nat.lt_of_succ_lt_succ hk)
  | case2 payload a cap m hstop => exact absurd hk (by simp [wordsLoaded_eq_zero hstop])

/-- At the parameter's default the capacity ends at the last address (R249; D18, log 18). -/
theorem toNat_add_capacity_le (origin : Word) :
    origin.toNat + capacity Config.loaderCapAtOrigin0 origin ≤ Config.memWords := by
  unfold capacity
  split
  case isTrue h => simp [h, Config.loaderCapAtOrigin0]
  case isFalse => exact (Nat.add_sub_of_le origin.isLt.le).le

/-- The loader's result on an image that holds an origin (R246, R248). -/
theorem load_cons_cons (b0 b1 : Byte) (payload : List Byte) (s : State) :
    load (b0 :: b1 :: payload) s =
      .ok (s.setMem (loadWords payload (b0 ++ b1) (capacity Config.loaderCapAtOrigin0 (b0 ++ b1)) s.mem)) := by
  simp only [load, loadWith, imageWord_eq_append]

/-- Settles O56: the capacity keeps the writes below the end of the address space, where they are at distinct addresses. -/
theorem loaderWritesThePayload : Obligations.LoaderWritesThePayload := by
  intro b0 b1 payload s
  have hcap := toNat_add_capacity_le (b0 ++ b1)
  refine ⟨_, load_cons_cons b0 b1 payload s, fun k hk => ⟨?inRange, ?written⟩, fun a => ?frame,
    rfl, rfl, rfl, rfl, rfl, rfl⟩
  case inRange =>
    have hlt := Nat.lt_of_lt_of_le hk (Nat.min_le_right _ _)
    simp only [Config.memWords] at hcap
    omega
  case written => exact read_loadWords_same (Nat.le_of_add_left_le hcap) hk
  case frame => exact read_loadWords_other

end Sys2Proof.Machine
end

section
/-! Decode and encode agree, and decoding looks at the used bits alone (30_encoding.md R81 to R88). -/

namespace Sys2Proof

/-! ## Fields of an encoded word (30_encoding.md R81, R82) -/

@[simp] theorem regAt_9_opWord (o : Opcode) (r : Reg) (x : BitVec 9) : regAt 9 (opWord o (regOver r x)) = r := by
  simp [regAt, field_operands]

@[simp] theorem field_9_opWord (o : Opcode) (r : Reg) (x : BitVec 9) : field 0 9 (opWord o (regOver r x)) = x := by
  rw [field_operands _ _ (by decide), regOver_low _ _ (by decide), BitVec.extractLsb'_eq_self]

@[simp] theorem regAt_6_opWord (o : Opcode) (r b : Reg) (x : BitVec 6) :
    regAt 6 (opWord o (regOver r (regMid b x))) = b := by
  simp [regAt, field_operands, regOver_low]

/-- The low six bits of a word with two registers above them. -/
theorem field_low_opWord (o : Opcode) (r b : Reg) (x : BitVec 6) {lo n : Nat} (h : lo + n ≤ 6) :
    field lo n (opWord o (regOver r (regMid b x))) = x.extractLsb' lo n := by
  rw [field_operands _ _ (by omega), regOver_low _ _ (by omega), regMid_low _ _ h]

@[simp] theorem regAt_0_opWord (o : Opcode) (r b c : Reg) :
    regAt 0 (opWord o (regOver r (regMid b (regMode c)))) = c := by
  simp [regAt, field_low_opWord]

/-- The mode bit of ADD and AND is bit 5 of those six. -/
theorem bitAt_5_opWord (o : Opcode) (r b : Reg) (x : BitVec 6) :
    bitAt 5 (opWord o (regOver r (regMid b x))) = x[5] := by
  rw [bitAt_operands _ _ (by decide), BitVec.getLsbD_eq_getElem (by decide), regOver_bit _ _ (by decide),
    regMid_bit _ _ (by decide)]

/-! ## TRAP's vectors (45_trap.md R181, R189) -/

@[simp] theorem decodeTrap_getc : decodeTrap (Config.trapVector .getc) = .trapGetc := rfl
@[simp] theorem decodeTrap_puts : decodeTrap (Config.trapVector .puts) = .trapPuts := rfl
@[simp] theorem decodeTrap_inp : decodeTrap (Config.trapVector .inp) = .trapIn := rfl
@[simp] theorem decodeTrap_putsp : decodeTrap (Config.trapVector .putsp) = .trapPutsp := rfl

theorem decodeTrap_of_none {v : BitVec 8} (h : Config.trapRoutineOf v = none) : decodeTrap v = .trapUnknown v := by
  simp [decodeTrap, h]

/-- A TRAP's word decodes by the vector it carries. -/
theorem decode_opWord_trapOver (v : BitVec 8) : decode (opWord .trap (trapOver v)) = decodeTrap v :=
  decode_trap (field_opcode _ _) ((field_operands _ _ (by decide)).trans (trapOver_vector v))

/-! ## Decode after encode -/

/-- Settles O3, format by format: every field is read at the place encode put it. -/
theorem decodeOfEncodeIsTheInstruction : Obligations.DecodeOfEncodeIsTheInstruction := by
  intro i hwf
  cases i with
  | br => simp [decode, encode, field_operands, bitAt_operands]
  | addReg | andReg | addImm | andImm =>
    simp [decode, encode, bitAt_5_opWord, field_low_opWord]
  | ld | st | ldi | sti | lea => simp [decode, encode]
  | ldr | str => simp [decode, encode, field_low_opWord]
  | notReg => simp [decode, encode]
  | jsr => simp [decode, encode, field_operands, bitAt_operands]
  | jsrr | jmp => simp [decode, encode, regAt, field_operands, bitAt_operands]
  | reserved8 => exact decode_reserved8 (field_opcode _ _)
  | reserved13 => exact Machine.decode_reserved13 (field_opcode _ _)
  | trapGetc | trapOut | trapPuts | trapIn | trapPutsp | trapHalt => simp [encode, decode_opWord_trapOver]
  | trapUnknown v =>
    rw [encode, decode_opWord_trapOver, decodeTrap_of_none (Option.isNone_iff_eq_none.mp hwf)]

/-! ## Every Word decodes to a well-formed instruction -/

theorem wellFormed_decodeTrap (v : BitVec 8) : (decodeTrap v).wellFormed = true := by
  cases hv : Config.trapRoutineOf v with
  | none => simp [decodeTrap, hv, Instr.wellFormed]
  | some r => cases r <;> simp [decodeTrap, hv, Instr.wellFormed]

/-- Only a TRAP's vector can fail the check, and decodeTrap sees to that. -/
theorem wellFormed_decode (w : Word) : (decode w).wellFormed = true := by
  unfold decode
  cases Config.opcodeOf (field 12 4 w) with
  | add | and | jsr => dsimp only; split <;> rfl
  | trap => exact wellFormed_decodeTrap _
  | br | ld | st | ldr | str | reserved8 | not | ldi | sti | jmp | reserved13 | lea => rfl

/-- Settles O4: decoding gives a well-formed instruction, and of such encode followed by decode is the identity. -/
theorem everyWordDecodesToAWellFormedInstruction : Obligations.EveryWordDecodesToAWellFormedInstruction :=
  fun w => ⟨wellFormed_decode w, decodeOfEncodeIsTheInstruction _ (wellFormed_decode w)⟩

/-! ## Which words decode to what -/

@[simp] theorem opcode_decodeTrap (v : BitVec 8) : (decodeTrap v).opcode = .trap := by
  unfold decodeTrap
  split <;> rfl

/-- Decoding is by ir[15:12] (30_encoding.md R85). -/
theorem opcode_decode (w : Word) : (decode w).opcode = Config.opcodeOf (field 12 4 w) := by
  unfold decode
  cases Config.opcodeOf (field 12 4 w) with
  | add | and | jsr => dsimp only; split <;> rfl
  | trap => exact opcode_decodeTrap _
  | br | ld | st | ldr | str | reserved8 | not | ldi | sti | jmp | reserved13 | lea => rfl

/-- The opcode bits of a word are those of the instruction it decodes to. -/
theorem opcodeBits_decode (w : Word) : w.extractLsb' 12 4 = Config.opcodeBits (decode w).opcode := by
  rw [opcode_decode, Config.opcodeBits_of, field]

theorem decodeTrap_eq_trapUnknown_iff {u v : BitVec 8} :
    decodeTrap u = .trapUnknown v ↔ u = v ∧ Config.trapRoutineOf u = none := by
  unfold decodeTrap
  split <;> simp [*]

/-- The vectors that name no routine are all but the six of R181. -/
theorem trapRoutineOf_eq_none_iff {v : BitVec 8} :
    Config.trapRoutineOf v = none ↔
      v ≠ 0x20#8 ∧ v ≠ 0x21#8 ∧ v ≠ 0x22#8 ∧ v ≠ 0x23#8 ∧ v ≠ 0x24#8 ∧ v ≠ 0x25#8 := by
  unfold Config.trapRoutineOf
  split_ifs <;> simp_all [Config.trapVector]

/-- Settles O6: the opcode bits of a word are those of what it decodes to; a TRAP's vector then says which TRAP. -/
theorem reservedAndUnknownTrapWords : Obligations.ReservedAndUnknownTrapWords := by
  intro w
  have opcode_bits {i : Instr} (h : decode w = i) : w.extractLsb' 12 4 = Config.opcodeBits i.opcode :=
    h ▸ opcodeBits_decode w
  refine ⟨⟨opcode_bits, decode_reserved8⟩, ⟨opcode_bits, Machine.decode_reserved13⟩, fun v => ?_⟩
  rw [← trapRoutineOf_eq_none_iff]
  constructor
  · intro h
    have hop : w.extractLsb' 12 4 = Config.opcodeBits .trap := opcode_bits h
    rw [decode_trap hop rfl, decodeTrap_eq_trapUnknown_iff] at h
    exact ⟨hop, h.1, h.1 ▸ h.2⟩
  · rintro ⟨hop, hv, hnone⟩
    rw [decode_trap hop hv, decodeTrap_of_none hnone]

/-! ## The bits decoding looks at -/

/-- Two words agree on the bits of a mask. -/
def AgreeOn (mask w w' : Word) : Prop := ∀ i, mask.getLsbD i = true → w'.getLsbD i = w.getLsbD i

theorem agreeOn_of_xor_and {mask w w' : Word} (h : (w ^^^ w') &&& mask = 0x0000#16) : AgreeOn mask w w' := by
  intro i hi
  have hbit : w.getLsbD i = w'.getLsbD i := by simpa [hi] using congrArg (fun x : Word => x.getLsbD i) h
  exact hbit.symm

section
variable {mask w w' : Word} (h : AgreeOn mask w w')
include h

theorem AgreeOn.bitAt {i : Nat} (hi : mask.getLsbD i = true) : bitAt i w' = bitAt i w := h i hi

/-- Words that agree on all bits of a field have the same field. -/
theorem AgreeOn.field {lo n : Nat} (hmask : ∀ i < n, mask.getLsbD (lo + i) = true) : field lo n w' = field lo n w := by
  apply BitVec.eq_of_getLsbD_eq
  intro i hi
  simp [Sys2Proof.field, hi, h _ (hmask i hi)]

theorem AgreeOn.regAt {lo : Nat} (hmask : ∀ i < 3, mask.getLsbD (lo + i) = true) : regAt lo w' = regAt lo w :=
  congrArg Reg.ofBits (h.field hmask)

end

/-- Words that agree on all sixteen bits are one word. -/
theorem AgreeOn.eq_of_all {w w' : Word} (h : AgreeOn 0xFFFF#16 w w') : w' = w :=
  BitVec.eq_of_getLsbD_eq fun i hi => h i (by revert i; decide)

/-- Every instruction uses the four opcode bits. -/
theorem usedBits_opcode (i : Instr) : ∀ j < 4, (Machine.usedBits i).getLsbD (12 + j) = true := by
  cases i <;> simp only [Machine.usedBits] <;> decide

@[simp] theorem usedBits_decodeTrap (v : BitVec 8) : Machine.usedBits (decodeTrap v) = 0xF0FF#16 := by
  unfold decodeTrap
  split <;> rfl

/-- Settles O5, opcode by opcode: where the mask has all sixteen bits the words are equal, elsewhere each field decoding
reads lies inside the mask. -/
theorem ignoredBitsDoNotChangeDecoding : Obligations.IgnoredBitsDoNotChangeDecoding := by
  intro w w' h
  have agree := agreeOn_of_xor_and h
  have hop := agree.field (usedBits_opcode _)
  unfold decode at agree ⊢
  rw [hop]
  generalize Config.opcodeOf (field 12 4 w) = o at agree ⊢
  cases o <;> dsimp only at agree ⊢
  case br | ld | st | ldr | str | ldi | sti | lea => rw [AgreeOn.eq_of_all agree]
  case add | and =>
    cases hmode : bitAt 5 w <;> rw [hmode] at agree
    · replace agree : AgreeOn 0xFFE7#16 w w' := agree
      rw [agree.bitAt (by decide), hmode, agree.regAt (by decide), agree.regAt (by decide), agree.regAt (by decide)]
      rfl
    · rw [AgreeOn.eq_of_all agree, hmode]
  case jsr =>
    cases hlong : bitAt 11 w <;> rw [hlong] at agree
    · replace agree : AgreeOn 0xF9C0#16 w w' := agree
      rw [agree.bitAt (by decide), hlong, agree.regAt (by decide)]
      rfl
    · rw [AgreeOn.eq_of_all agree, hlong]
  case not =>
    replace agree : AgreeOn 0xFFC0#16 w w' := agree
    rw [agree.regAt (by decide), agree.regAt (by decide)]
  case jmp =>
    replace agree : AgreeOn 0xF1C0#16 w w' := agree
    rw [agree.regAt (by decide)]
  case trap =>
    rw [usedBits_decodeTrap] at agree
    rw [agree.field (by decide)]

/-! ## The rows of the opcode table -/

/-- Settles O2: each row is decode evaluated at one word. -/
theorem oneWordOfEachRowDecodes : Obligations.OneWordOfEachRowDecodes := by
  unfold Obligations.OneWordOfEachRowDecodes
  decide

end Sys2Proof
end

section
/-! Memory's canonical form is determined by what it reads as, and what a poll answers (10_state.md sections 4 and 6;
20_memory.md R50, R51). -/

namespace Sys2Proof.Machine

/-! ## Two canonical memories that read alike -/

/-- Below its first address a canonical list of cells reads as MEM_INIT. -/
theorem readCells_below {low a : Nat} {l : List Cell} (hl : cellsFrom low l = true) (ha : a < low) :
    readCells l a = Config.memInit := by
  induction l generalizing low with
  | nil => rfl
  | cons c rest ih =>
    obtain ⟨k, w⟩ := c
    obtain ⟨hlow, -, -, hrest⟩ := (cellsFrom_cons ..).mp hl
    rw [readCells, if_neg (by omega), ih hrest (by omega)]

/-- So a canonical list that reads as something else at an address starts at or below it. -/
theorem le_of_readCells_ne {low a : Nat} {l : List Cell} (hl : cellsFrom low l = true)
    (ha : readCells l a ≠ Config.memInit) : low ≤ a :=
  Nat.le_of_not_lt fun h => ha (readCells_below hl h)

@[simp] theorem readCells_head (k : Nat) (w : Word) (l : List Cell) : readCells ((k, w) :: l) k = w := by
  simp [readCells]

theorem readCells_tail {k a : Nat} (w : Word) (l : List Cell) (h : a ≠ k) :
    readCells ((k, w) :: l) a = readCells l a := by
  rw [readCells, if_neg (Ne.symm h)]

/-- A canonical list reads as its first cell's Word there, which is not MEM_INIT. -/
theorem readCells_head_ne {low k : Nat} {w : Word} {l : List Cell} (hl : cellsFrom low ((k, w) :: l) = true) :
    readCells ((k, w) :: l) k ≠ Config.memInit := by
  obtain ⟨-, -, hw, -⟩ := (cellsFrom_cons ..).mp hl
  rwa [readCells_head]

/-- The first address of a canonical list that reads alike is no higher. -/
theorem head_le_of_reads_alike {low low' k k' : Nat} {w w' : Word} {l l' : List Cell}
    (hl : cellsFrom low ((k, w) :: l) = true) (hl' : cellsFrom low' ((k', w') :: l') = true)
    (alike : ∀ a < Config.memWords, readCells ((k, w) :: l) a = readCells ((k', w') :: l') a) : k' ≤ k := by
  obtain ⟨-, hk, -, -⟩ := (cellsFrom_cons ..).mp hl
  obtain ⟨-, hk', hw', hrest'⟩ := (cellsFrom_cons ..).mp hl'
  have from_head : cellsFrom k' ((k', w') :: l') = true := (cellsFrom_cons ..).mpr ⟨le_rfl, hk', hw', hrest'⟩
  exact le_of_readCells_ne from_head (alike k hk ▸ readCells_head_ne hl)

/-- Canonical lists of cells that read alike inside the address space are equal. -/
theorem cells_eq_of_reads_alike {low : Nat} {l l' : List Cell} (hl : cellsFrom low l = true)
    (hl' : cellsFrom low l' = true) (alike : ∀ a < Config.memWords, readCells l a = readCells l' a) : l = l' := by
  induction l generalizing low l' with
  | nil =>
    cases l' with
    | nil => rfl
    | cons c' rest' =>
      obtain ⟨-, hk', -, -⟩ := (cellsFrom_cons ..).mp hl'
      exact absurd (alike _ hk').symm (readCells_head_ne hl')
  | cons c rest ih =>
    obtain ⟨k, w⟩ := c
    obtain ⟨-, hk, -, hrest⟩ := (cellsFrom_cons ..).mp hl
    cases l' with
    | nil => exact absurd (alike k hk) (readCells_head_ne hl)
    | cons c' rest' =>
      obtain ⟨k', w'⟩ := c'
      obtain ⟨-, -, -, hrest'⟩ := (cellsFrom_cons ..).mp hl'
      obtain rfl : k = k' :=
        le_antisymm (head_le_of_reads_alike hl' hl fun a ha => (alike a ha).symm) (head_le_of_reads_alike hl hl' alike)
      obtain rfl : w = w' := by simpa using alike k hk
      rw [ih hrest hrest' fun a ha => ?_]
      rcases Nat.lt_or_ge k a with hgt | hle
      · rw [← readCells_tail w rest hgt.ne', ← readCells_tail w rest' hgt.ne']
        exact alike a ha
      · rw [readCells_below hrest (by omega), readCells_below hrest' (by omega)]

/-- Settles O55: every address inside the address space is some Word's number. -/
theorem memoriesThatReadAlikeAreEqual : Obligations.MemoriesThatReadAlikeAreEqual := by
  rintro ⟨cells⟩ ⟨cells'⟩ hwf hwf' alike
  refine congrArg Memory.mk (cells_eq_of_reads_alike hwf hwf' fun a ha => ?_)
  have hnum : (BitVec.ofNat 16 a).toNat = a := Nat.mod_eq_of_lt ha
  simpa only [Memory.read, hnum] using alike (BitVec.ofNat 16 a)

/-! ## A poll and a read of the status address -/

/-- A poll uses up the listed answer it takes. -/
theorem Keyboard.poll_answers {k : Keyboard} {b : Bool} {bs : List Bool} (h : k.answers = b :: bs) :
    k.poll.2.answers = bs := by
  unfold Keyboard.poll Keyboard.nextAnswer
  rw [h]
  cases b
  · rfl
  · cases k.input <;> rfl

/-- Settles O54. -/
theorem pollAnswerIsTheEnvironments : Obligations.PollAnswerIsTheEnvironments :=
  fun _ => ⟨fun _ _ => Keyboard.poll_some, fun _ => Keyboard.poll_none,
    fun _ _ h => ⟨Keyboard.poll_listed h, Keyboard.poll_answers h⟩⟩

/-- A read of the status address returns the status cell as its poll leaves it (20_memory.md R50). -/
theorem State.memRead_status (s : State) :
    s.memRead Config.kbsrAddr = (s.pollStatus.cell Config.kbsrAddr, s.pollStatus) := by
  rw [State.memRead, State.touch_status]

/-- Reads and output change at most the two device cells. -/
theorem OnlyIo.sameCellsBut_deviceCells {s t : State} (h : OnlyIo s t) : SameCellsBut deviceCells s t := by
  intro a ha
  obtain ⟨hstatus, hdata⟩ : a ≠ Config.kbsrAddr ∧ a ≠ Config.kbdrAddr := by simpa [deviceCells] using ha
  exact h.cells a hstatus hdata

/-- Settles O50: the read is the poll, whose two answers the laws of pollStatus give. -/
theorem statusReadPolls : Obligations.StatusReadPolls := by
  intro s
  obtain ⟨hregs, hpc, hcond, hrun, -, -, -, -⟩ := s.pollStatus_onlyIo
  have houtput : s.pollStatus.output = s.output := s.touch_status ▸ s.touch_output Config.kbsrAddr
  rw [State.memRead_status]
  constructor
  · intro c k hpoll
    obtain ⟨hstatus, hdata, hkbd⟩ := State.pollStatus_some hpoll
    have hcells := s.pollStatus_onlyIo.sameCellsBut_deviceCells
    exact ⟨_, congrArg (·, _) hstatus, hstatus, hdata, hcells, hkbd, hregs, hpc, hcond, hrun, houtput⟩
  · intro k hpoll
    obtain ⟨hstatus, hcells, hkbd⟩ := State.pollStatus_none hpoll
    exact ⟨_, congrArg (·, _) hstatus, fun a ha => hcells a (List.ne_of_not_mem_cons ha), hstatus, hkbd, hregs, hpc,
      hcond, hrun, houtput⟩

end Sys2Proof.Machine
end

section
/-! GETC, IN, HALT and the unknown vector (45_trap.md section 2). -/

namespace Sys2Proof.Machine

/-! ## The blocking reads -/

theorem exec_trapGetc {s : State} {c : CharRead} {k : Keyboard} (h : s.kbd.getc = some (c, k)) :
    exec .trapGetc s = .next ((s.setKbd k).writeResult .r0 c.toWord) := by
  change execTrapGetc s = _
  simp only [execTrapGetc, State.trapEntry_default, h, State.takeChar_default]

/-- IN prompts before it reads and echoes after it (R186). -/
theorem exec_trapIn {s : State} {c : CharRead} {k : Keyboard} (h : s.kbd.getc = some (c, k)) :
    exec .trapIn s =
      .next ((((s.conPuts Config.inPrompt).setKbd k).conPuts [c.echo]).writeResult .r0 c.toWord) := by
  change execTrapIn s = _
  simp only [execTrapIn, State.trapEntry_default, State.conPuts_kbd, h, State.conPut_eq, State.takeChar_default,
    State.conFlush_eq]

theorem exec_trapGetc_waits {s : State} (h : s.kbd.getc = none) : exec .trapGetc s = .fault .waitingForInput := by
  change execTrapGetc s = _
  simp only [execTrapGetc, State.trapEntry_default, h]

theorem exec_trapIn_waits {s : State} (h : s.kbd.getc = none) : exec .trapIn s = .fault .waitingForInput := by
  change execTrapIn s = _
  simp only [execTrapIn, State.trapEntry_default, State.conPuts_kbd, h]

/-- A zero-extended character is never negative. -/
theorem condOf_zext (c : Byte) : condOf (zext c) = if c = 0x00#8 then .zero else .positive := by
  have hlt := c.isLt
  have hnum : (zext c).toNat = c.toNat := BitVec.toNat_setWidth_of_le (by decide)
  have hzero : c = 0x00#8 ↔ c.toNat = 0 := BitVec.toNat_inj.symm
  rw [condOf_eq_ite_toNat, hnum, if_neg (by omega : ¬ 0x8000 ≤ c.toNat)]
  simp only [hzero]

/-- Settles O26. -/
theorem getcTakesOneCharacter : Obligations.GetcTakesOneCharacter := by
  refine ⟨fun _ hop hv => (decode_trap hop hv).trans decodeTrap_getc, fun s c rest hinput => ?_⟩
  obtain ⟨hvalue, hcond, hregs, hpc, hmem, hrun, hkbd, houtput⟩ :=
    (s.setKbd { s.kbd with input := rest }).writeResult_wroteResult .r0 (zext c)
  exact ⟨_, exec_trapGetc (Keyboard.getc_cons hinput), hvalue, hcond.trans (condOf_zext c), hregs, hpc, hmem, hrun,
    hkbd, houtput⟩

/-- Settles O27. -/
theorem inPromptsTakesAndEchoes : Obligations.InPromptsTakesAndEchoes := by
  refine ⟨fun _ hop hv => (decode_trap hop hv).trans decodeTrap_inp, fun s c rest hinput => ?_⟩
  obtain ⟨hvalue, hcond, hregs, hpc, hmem, hrun, hkbd, houtput⟩ :=
    (((s.conPuts Config.inPrompt).setKbd { s.kbd with input := rest }).conPuts [c]).writeResult_wroteResult .r0 (zext c)
  exact ⟨_, exec_trapIn (Keyboard.getc_cons hinput), hvalue, hcond.trans (condOf_zext c), hregs, hpc, hmem, hrun,
    hkbd, houtput⟩

/-- Settles O28: at the end of the input the blocking read leaves the collaborator as it is. -/
theorem blockingReadAtTheEndOfInput : Obligations.BlockingReadAtTheEndOfInput := by
  intro s hempty hended
  have hgetc := Keyboard.getc_ended hempty hended
  exact ⟨⟨_, exec_trapGetc hgetc, s.writeResult_wroteResult _ _⟩,
    _, Config.inputEofEcho, exec_trapIn hgetc, State.writeResult_wroteResult _ _ _⟩

/-- Settles O29. -/
theorem blockingReadWaitsForInput : Obligations.BlockingReadWaitsForInput := by
  intro s hempty hopen
  have hgetc := Keyboard.getc_waits hempty hopen
  exact ⟨exec_trapGetc_waits hgetc, exec_trapIn_waits hgetc⟩

/-! ## The unknown vector -/

/-- Settles O35. -/
theorem unknownTrapIsFatal : Obligations.UnknownTrapIsFatal :=
  fun _ => ⟨fun _ hop hv hnone => (decode_trap hop hv).trans (decodeTrap_of_none hnone), fun _ => rfl,
    Config.exitFatal_ne_zero⟩

end Sys2Proof.Machine
end

section
/-! PUTS and PUTSP: the bounded loop of the model is the spec's unbounded one (45_trap.md R185, R187; log 32). -/

namespace Sys2Proof.Machine

section
variable {emit : Word → List Byte} {a : Word} {s t u : State}

/-- Whatever the bounded loop answers, the unbounded one leads to. -/
theorem stringLoop_of_printWords {fuel : Nat} (h : State.printWords emit fuel a s = some t) :
    StringLoop emit a s t := by
  induction fuel generalizing a s with
  | zero => cases h
  | succ fuel ih =>
    rw [State.printWords] at h
    split at h
    · next hzero => exact Option.some.inj h ▸ .stop hzero
    · next hmore => exact .more hmore (ih h)

/-- The unbounded loop leads to one state at most. -/
theorem StringLoop.unique (ht : StringLoop emit a s t) (hu : StringLoop emit a s u) : t = u := by
  induction ht with
  | stop hzero =>
    cases hu with
    | stop _ => rfl
    | more hmore _ => exact absurd hzero hmore
  | more hmore _ ih =>
    cases hu with
    | stop hzero => exact absurd hzero hmore
    | more _ rest => exact ih rest

/-- The bounded loop always answers, so it answers whatever the unbounded one leads to. -/
theorem printString_eq_some_iff : s.printString emit = some t ↔ StringLoop emit (s.reg .r0) s t := by
  refine ⟨stringLoop_of_printWords, fun h => ?_⟩
  obtain ⟨u, hu⟩ := s.printString_isSome emit
  rw [hu, h.unique (stringLoop_of_printWords hu)]

theorem exec_trapPuts_iff : exec .trapPuts s = .next t ↔ StringLoop putsBytes (s.reg .r0) s t := by
  rw [← printString_eq_some_iff]
  refine ⟨execTrapPuts_next, fun h => ?_⟩
  change execTrapPuts s = _
  simp only [execTrapPuts, State.trapEntry_default, h, State.conFlush_eq]

theorem exec_trapPutsp_iff : exec .trapPutsp s = .next t ↔ StringLoop putspBytes (s.reg .r0) s t := by
  rw [← printString_eq_some_iff]
  refine ⟨execTrapPutsp_next, fun h => ?_⟩
  change execTrapPutsp s = _
  simp only [execTrapPutsp, State.trapEntry_default, h, State.conFlush_eq]

/-- ws stands in memory from a on, no Word of it zero, with a zero Word behind it and off the status address. -/
structure Terminated (ws : List Word) (a : Word) (s : State) : Prop where
  words : ∀ k, k < ws.length → ws.getD k 0 ≠ 0x0000#16 ∧ s.cell (a + BitVec.ofNat 16 k) = ws.getD k 0
  zero : s.cell (a + BitVec.ofNat 16 ws.length) = 0x0000#16
  plain : ∀ k, k ≤ ws.length → a + BitVec.ofNat 16 k ≠ Config.kbsrAddr

/-- The first address of a terminated string is read without a poll. -/
theorem Terminated.memRead {ws : List Word} (h : Terminated ws a s) : s.memRead a = (s.cell a, s) :=
  State.memRead_plain (by simpa using h.plain 0 (Nat.zero_le _)) s

theorem Terminated.head {w : Word} {ws : List Word} (h : Terminated (w :: ws) a s) :
    w ≠ 0x0000#16 ∧ s.cell a = w := by
  simpa using h.words 0 (Nat.succ_pos _)

theorem Terminated.tail {w : Word} {ws : List Word} (h : Terminated (w :: ws) a s) : Terminated ws (a + 1) s where
  words k hk := add_ofNat_succ a k ▸ h.words (k + 1) (Nat.succ_lt_succ hk)
  zero := add_ofNat_succ a ws.length ▸ h.zero
  plain k hk := add_ofNat_succ a k ▸ h.plain (k + 1) (Nat.succ_le_succ hk)

/-- Output leaves a string in memory as it is. -/
theorem Terminated.conPuts {ws : List Word} (h : Terminated ws a s) (bs : List Byte) : Terminated ws a (s.conPuts bs) :=
  ⟨h.words, h.zero, h.plain⟩

@[simp] theorem State.conPuts_nil (s : State) : s.conPuts [] = s :=
  congrArg (fun out => s.setOutput out) (List.append_nil s.output)

theorem State.conPuts_conPuts (bs bs' : List Byte) (s : State) :
    (s.conPuts bs).conPuts bs' = s.conPuts (bs ++ bs') :=
  congrArg (fun out => s.setOutput out) (List.append_assoc s.output bs bs')

/-- On a terminated string the loop appends the bytes of its Words and does nothing else. -/
theorem Terminated.stringLoop {ws : List Word} (h : Terminated ws a s) :
    StringLoop emit a s (s.conPuts (ws.flatMap emit)) := by
  induction ws generalizing a s with
  | nil =>
    have hzero : (s.memRead a).1 = 0x0000#16 := by simpa [h.memRead] using h.zero
    simpa [h.memRead] using StringLoop.stop (emit := emit) hzero
  | cons w ws ih =>
    obtain ⟨hne, hcell⟩ := h.head
    refine .more (by rwa [h.memRead, hcell]) ?_
    rw [h.memRead, hcell, List.flatMap_cons, ← State.conPuts_conPuts]
    exact ih (h.tail.conPuts _)

end

/-- Settles O33. -/
theorem stringRoutinesAreTheSpecsLoops : Obligations.StringRoutinesAreTheSpecsLoops :=
  fun _ _ => ⟨exec_trapPuts_iff, exec_trapPutsp_iff⟩

/-- Settles O31: each Word gives one byte, so the bytes of the string are a map over it. -/
theorem putsWritesATerminatedString : Obligations.PutsWritesATerminatedString := by
  refine ⟨fun _ hop hv => (decode_trap hop hv).trans decodeTrap_puts, fun s ws hwords hzero hplain => ?_⟩
  rw [List.map_eq_flatMap]
  exact exec_trapPuts_iff.mpr (Terminated.stringLoop ⟨hwords, hzero, hplain⟩)

/-- Settles O32. -/
theorem putspWritesATerminatedString : Obligations.PutspWritesATerminatedString :=
  ⟨fun _ hop hv => (decode_trap hop hv).trans decodeTrap_putsp, fun _ _ hwords hzero hplain =>
    exec_trapPutsp_iff.mpr (Terminated.stringLoop ⟨hwords, hzero, hplain⟩)⟩

end Sys2Proof.Machine
end

section
/-! What a handler can do, said once: reads and output first, then at most one plain change of the core. The rules about
the whole machine follow from that (10_state.md; 41_dispatcher.md). -/

namespace Sys2Proof.Machine

/-- The status an instruction ends the run with; none where it leaves the machine running (41_dispatcher.md R126). -/
def endStatus : Instr → Option RunStatus
  | .trapHalt => some .halted
  | .reserved8 => some (.fatalReservedOpcode (Config.opcodeBits .reserved8))
  | .reserved13 => some (.fatalReservedOpcode (Config.opcodeBits .reserved13))
  | .trapUnknown v => some (.fatalUnknownTrap v)
  | _ => none

/-- The instructions that write output bytes (45_trap.md section 3). -/
def writers : List Instr := [.trapOut, .trapPuts, .trapIn, .trapPutsp, .trapHalt]

/-- What instruction i has done by reads and output when it comes to its last change: from s to u. -/
structure IoPart (i : Instr) (s u : State) : Prop extends OnlyIo s u where
  mem : i ≠ .trapPuts → i ≠ .trapPutsp → Config.kbsrAddr ∉ readAddresses i s → u.mem = s.mem
  quiet : i ∉ writers → u.output = s.output

/-- The last change of instruction i, from u to t: a result with its flags, a link, a jump, a store, the end of the run,
or nothing. The address of a store is computed in s, the state the handler starts in. -/
inductive CoreChange (i : Instr) (s u : State) : State → Prop where
  | result (dr : Reg) (v : Word) (hregs : writtenRegs i = [dr]) (hflag : flagReg i = some dr)
      (hstore : storeAddress i s = none) (hend : endStatus i = none) : CoreChange i s u (u.writeResult dr v)
  | link (target : Word) (hregs : writtenRegs i = [.r7]) (hflag : flagReg i = none)
      (hstore : storeAddress i s = none) (hend : endStatus i = none) : CoreChange i s u (u.linkTo target)
  | jump (target : Word) (hregs : writtenRegs i = []) (hflag : flagReg i = none)
      (hstore : storeAddress i s = none) (hend : endStatus i = none) : CoreChange i s u (u.setPc target)
  | store (a v : Word) (hregs : writtenRegs i = []) (hflag : flagReg i = none)
      (hstore : storeAddress i s = some a) (hend : endStatus i = none) : CoreChange i s u (u.memWrite a v)
  | stop (status : RunStatus) (hregs : writtenRegs i = []) (hflag : flagReg i = none)
      (hstore : storeAddress i s = none) (hend : endStatus i = some status) :
      CoreChange i s u (u.setRun (.ended status))
  | nothing (hregs : writtenRegs i = []) (hflag : flagReg i = none)
      (hstore : storeAddress i s = none) (hend : endStatus i = none) : CoreChange i s u u

theorem IoPart.refl (i : Instr) (s : State) : IoPart i s s :=
  ⟨.refl s, fun _ _ _ => rfl, fun _ => rfl⟩

/-- One more read, of an address readAddresses lists. -/
theorem IoPart.memRead {i : Instr} {s u : State} {a : Word} (h : IoPart i s u) (ha : a ∈ readAddresses i s) :
    IoPart i s (u.memRead a).2 where
  toOnlyIo := h.toOnlyIo.trans (u.touch_onlyIo a)
  mem hputs hputsp hplain := by
    rw [State.memRead_plain fun hstatus => hplain (hstatus ▸ ha)]
    exact h.mem hputs hputsp hplain
  quiet hquiet := (u.touch_output a).trans (h.quiet hquiet)

/-- The environment's answer to a blocking read is taken from the front. -/
theorem State.setKbd_onlyIo {s : State} {c : CharRead} {k : Keyboard} (h : s.kbd.getc = some (c, k)) :
    OnlyIo s (s.setKbd k) :=
  ⟨rfl, rfl, rfl, rfl, fun _ _ _ => rfl, id, Keyboard.getc_input h, ⟨[], by simp⟩⟩

/-- A routine that writes output need not be quiet. -/
theorem ioPart_of_writer {i : Instr} {s u : State} (hi : i ∈ writers) (h : OnlyIo s u)
    (hmem : i ≠ .trapPuts → i ≠ .trapPutsp → u.mem = s.mem) : IoPart i s u :=
  ⟨h, fun h1 h2 _ => hmem h1 h2, fun hq => absurd hi hq⟩

/-- Every completed handler is reads and output, then its last change. -/
theorem exec_next_cases {i : Instr} {s t : State} (h : exec i s = .next t) :
    ∃ u, IoPart i s u ∧ CoreChange i s u t := by
  cases i with
  | br n z p off =>
    obtain rfl := Host.Outcome.next.inj h
    refine ⟨s, .refl _ s, ?_⟩
    split
    · exact .jump _ rfl rfl rfl rfl
    · exact .nothing rfl rfl rfl rfl
  | jmp =>
    obtain rfl := Host.Outcome.next.inj h
    exact ⟨s, .refl _ s, .jump _ rfl rfl rfl rfl⟩
  | jsr | jsrr =>
    obtain rfl := Host.Outcome.next.inj h
    exact ⟨s, .refl _ s, .link _ rfl rfl rfl rfl⟩
  | addReg | addImm | andReg | andImm | notReg | lea =>
    obtain rfl := Host.Outcome.next.inj h
    exact ⟨s, .refl _ s, .result _ _ rfl rfl rfl rfl⟩
  | ld | ldr =>
    obtain rfl := Host.Outcome.next.inj h
    exact ⟨_, (IoPart.refl _ s).memRead (List.mem_singleton_self _), .result _ _ rfl rfl rfl rfl⟩
  | ldi =>
    obtain rfl := Host.Outcome.next.inj h
    exact ⟨_, ((IoPart.refl _ s).memRead List.mem_cons_self).memRead (List.mem_cons_of_mem _ List.mem_cons_self),
      .result _ _ rfl rfl rfl rfl⟩
  | st | str =>
    obtain rfl := Host.Outcome.next.inj h
    exact ⟨s, .refl _ s, .store _ _ rfl rfl rfl rfl⟩
  | sti =>
    obtain rfl := Host.Outcome.next.inj h
    exact ⟨_, (IoPart.refl _ s).memRead (List.mem_singleton_self _), .store _ _ rfl rfl rfl rfl⟩
  | reserved8 | reserved13 | trapUnknown =>
    obtain rfl := Host.Outcome.next.inj h
    exact ⟨s, .refl _ s, .stop _ rfl rfl rfl rfl⟩
  | trapHalt =>
    obtain rfl := Host.Outcome.next.inj h
    have hio := s.conPuts_onlyIo Config.haltNotice
    exact ⟨_, ioPart_of_writer (by decide) hio fun _ _ => rfl, .stop _ rfl rfl rfl rfl⟩
  | trapOut =>
    obtain rfl := Host.Outcome.next.inj h
    exact ⟨_, ioPart_of_writer (by decide) (s.conPuts_onlyIo _) fun _ _ => rfl, .nothing rfl rfl rfl rfl⟩
  | trapGetc =>
    obtain ⟨c, k, hk, rfl⟩ := execTrapGetc_next h
    exact ⟨_, ⟨State.setKbd_onlyIo hk, fun _ _ _ => rfl, fun _ => rfl⟩, .result _ _ rfl rfl rfl rfl⟩
  | trapIn =>
    obtain ⟨c, k, hk, rfl⟩ := execTrapIn_next h
    have prompted := s.conPuts_onlyIo Config.inPrompt
    have hio := (prompted.trans (State.setKbd_onlyIo hk)).trans (State.conPuts_onlyIo [c.echo] _)
    exact ⟨_, ioPart_of_writer (by decide) hio fun _ _ => rfl, .result _ _ rfl rfl rfl rfl⟩
  | trapPuts =>
    have hio := State.printString_onlyIo (execTrapPuts_next h)
    exact ⟨t, ioPart_of_writer (by decide) hio fun hne _ => absurd rfl hne, .nothing rfl rfl rfl rfl⟩
  | trapPutsp =>
    have hio := State.printString_onlyIo (execTrapPutsp_next h)
    exact ⟨t, ioPart_of_writer (by decide) hio fun _ hne => absurd rfl hne, .nothing rfl rfl rfl rfl⟩

/-! ## What the last change leaves alone -/

section
variable {i : Instr} {s u t : State}

theorem CoreChange.sameRegsBut (h : CoreChange i s u t) : SameRegsBut (writtenRegs i) u t := by
  intro r hr
  cases h with
  | result dr v hregs => exact State.writeResult_reg_other _ _ _ _ (List.ne_of_not_mem_cons (hregs ▸ hr))
  | link target hregs => exact u.linkTo_sameRegsBut target r (hregs ▸ hr)
  | jump | store | stop | nothing => rfl

/-- A result comes with its flags, and nothing else sets them (10_state.md R27). -/
theorem CoreChange.cond_of_flagReg {r : Reg} (h : CoreChange i s u t) (hr : flagReg i = some r) :
    t.cond = condOf (t.reg r) := by
  cases h with
  | result dr v _ hflag =>
    obtain rfl : dr = r := Option.some.inj (hflag.symm.trans hr)
    rw [State.writeResult_cond, State.writeResult_reg_same]
  | link _ _ hflag | jump _ _ hflag | store _ _ _ hflag | stop _ _ hflag | nothing _ hflag => simp [hflag] at hr

theorem CoreChange.cond_of_no_flagReg (h : CoreChange i s u t) (hi : flagReg i = none) : t.cond = u.cond := by
  cases h with
  | result dr v _ hflag => simp [hflag] at hi
  | link | jump | store | stop | nothing => rfl

theorem CoreChange.mem_of_no_store (h : CoreChange i s u t) (hi : storeAddress i s = none) : t.mem = u.mem := by
  cases h with
  | store a v _ _ hstore => simp [hstore] at hi
  | result | link | jump | stop | nothing => rfl

/-- A store changes the cell at its address and no other (20_memory.md R54). -/
theorem CoreChange.sameCellsBut_of_store {a : Word} (h : CoreChange i s u t) (hi : storeAddress i s = some a) :
    SameCellsBut [a] u t := by
  cases h with
  | store a' v _ _ hstore =>
    obtain rfl : a' = a := Option.some.inj (hstore.symm.trans hi)
    exact (u.memWrite_stored a' v).cells
  | result _ _ _ _ hstore | link _ _ _ hstore | jump _ _ _ hstore | stop _ _ _ hstore | nothing _ _ hstore =>
    simp [hstore] at hi

theorem CoreChange.run_eq (h : CoreChange i s u t) : t.run = (endStatus i).elim u.run .ended := by
  cases h with
  | result _ _ _ _ _ hend | link _ _ _ _ hend | jump _ _ _ _ hend | store _ _ _ _ _ hend | stop _ _ _ _ hend
  | nothing _ _ _ hend => rw [hend]; rfl

theorem CoreChange.io_eq (h : CoreChange i s u t) : t.kbd = u.kbd ∧ t.output = u.output := by
  cases h with
  | result | link | jump | store | stop | nothing => exact ⟨rfl, rfl⟩

theorem CoreChange.mem_wf (h : CoreChange i s u t) (hwf : u.mem.wf = true) : t.mem.wf = true := by
  cases h with
  | store a v => exact u.setCell_wf a v hwf
  | result | link | jump | stop | nothing => exact hwf

end

/-- Settles O42: only the last change writes registers. -/
theorem onlyTheListedRegistersAreWritten : Obligations.OnlyTheListedRegistersAreWritten := by
  intro i s t h r hr
  obtain ⟨u, io, change⟩ := exec_next_cases h
  exact (change.sameRegsBut r hr).trans (State.reg_of_regs io.regs r)

/-- Settles O43: only the last change writes COND. -/
theorem condFollowsTheListedWrites : Obligations.CondFollowsTheListedWrites := by
  intro i s t h
  obtain ⟨u, io, change⟩ := exec_next_cases h
  exact ⟨fun r => change.cond_of_flagReg, fun hnone => (change.cond_of_no_flagReg hnone).trans io.cond⟩

/-- Settles O44: reads change at most the device cells, and those only at the status address; the last change is at most
one store. -/
theorem cellsChangeOnlyByStoresAndPolls : Obligations.CellsChangeOnlyByStoresAndPolls := by
  intro i s t h
  obtain ⟨u, io, change⟩ := exec_next_cases h
  refine ⟨fun a ha b hb => ?store, fun hnone b hb => ?noStore, fun hputs hputsp hplain => ?plain⟩
  case store =>
    obtain ⟨hstore, hdevice⟩ := not_or.mp (mt List.mem_cons.mpr hb)
    have hchange := change.sameCellsBut_of_store ha b (mt List.mem_singleton.mp hstore)
    exact hchange.trans (io.sameCellsBut_deviceCells b hdevice)
  case noStore =>
    exact (State.cell_of_mem (change.mem_of_no_store hnone) b).trans (io.sameCellsBut_deviceCells b hb)
  case plain =>
    have hmem := io.mem hputs hputsp hplain
    exact ⟨fun a ha b hb => (change.sameCellsBut_of_store ha b hb).trans (State.cell_of_mem hmem b),
      fun hnone => (change.mem_of_no_store hnone).trans hmem⟩

/-- Settles O45: the fetch and the reads take input from the front, and only the writing routines append output. -/
theorem inputFromTheFrontOutputAtTheEnd : Obligations.InputFromTheFrontOutputAtTheEnd := by
  intro s t h
  obtain ⟨-, hexec⟩ := running_and_exec_of_step_next h
  obtain ⟨u, io, change⟩ := exec_next_cases hexec
  obtain ⟨hkbd, houtput⟩ := change.io_eq
  obtain ⟨fetched, hfetched⟩ := (s.touch_onlyIo s.pc).input
  obtain ⟨taken, htaken⟩ := io.input
  obtain ⟨bytes, hbytes⟩ := io.output
  have hfetch : (s.memRead s.pc).2.output = s.output := s.touch_output s.pc
  refine ⟨⟨fetched ++ taken, ?input⟩, bytes, houtput.trans (hbytes.trans (congrArg (· ++ bytes) hfetch)), ?writer⟩
  case input => rw [hfetched, hkbd, List.append_assoc, ← htaken]; rfl
  case writer =>
    refine fun hne => by_contra fun hquiet => hne ?_
    simpa [hbytes] using io.quiet hquiet

/-! ## The end of a run -/

/-- The run state after a handler: ended with the instruction's status, else as it was. -/
theorem exec_run {i : Instr} {s t : State} (h : exec i s = .next t) : t.run = (endStatus i).elim s.run .ended := by
  obtain ⟨u, io, change⟩ := exec_next_cases h
  rw [change.run_eq, io.run]

/-- A running machine is ended by an instruction's own status only. -/
theorem exec_run_eq_ended_iff {i : Instr} {s t : State} {status : RunStatus} (h : exec i s = .next t)
    (hrun : s.run = .running) : t.run = .ended status ↔ endStatus i = some status := by
  rw [exec_run h, hrun]
  cases endStatus i <;> simp

theorem endStatus_eq_halted_iff {i : Instr} : endStatus i = some .halted ↔ i = .trapHalt := by
  cases i <;> simp [endStatus]

theorem endStatus_eq_fatalReservedOpcode_iff {i : Instr} {op : BitVec 4} :
    endStatus i = some (.fatalReservedOpcode op) ↔
      (i = .reserved8 ∧ op = Config.opcodeBits .reserved8) ∨
      (i = .reserved13 ∧ op = Config.opcodeBits .reserved13) := by
  cases i <;> simp [endStatus, eq_comm]

theorem endStatus_eq_fatalUnknownTrap_iff {i : Instr} {v : BitVec 8} :
    endStatus i = some (.fatalUnknownTrap v) ↔ i = .trapUnknown v := by
  cases i <;> simp [endStatus]

/-- Settles O46. -/
theorem runEndsInExactlyThreeWays : Obligations.RunEndsInExactlyThreeWays := by
  intro s t h
  obtain ⟨hrun, hexec⟩ := running_and_exec_of_step_next h
  have ended_iff {status : RunStatus} : t.run = .ended status ↔ endStatus (decode (s.memRead s.pc).1) = some status :=
    exec_run_eq_ended_iff hexec ((s.touch_run s.pc).trans hrun)
  exact ⟨ended_iff.trans endStatus_eq_halted_iff, fun _ => ended_iff.trans endStatus_eq_fatalReservedOpcode_iff,
    fun _ => ended_iff.trans endStatus_eq_fatalUnknownTrap_iff⟩

/-- Settles O34: Halted is the status of HALT alone. -/
theorem haltEndsTheRun : Obligations.HaltEndsTheRun :=
  ⟨fun _ hop hv => (decode_trap hop hv).trans decodeTrap_halt, fun _ => rfl, rfl, fun _ _ _ hrun hexec hhalted =>
    endStatus_eq_halted_iff.mp ((exec_run_eq_ended_iff hexec hrun).mp hhalted)⟩

/-! ## The invariant -/

/-- A well-formed instruction ends the run with a legal status only (10_state.md R32). -/
theorem legal_of_endStatus {i : Instr} {status : RunStatus} (hwf : i.wellFormed = true)
    (h : endStatus i = some status) : (RunState.ended status).legal = true := by
  cases i <;> simp [endStatus] at h
  case trapHalt | reserved8 | reserved13 => subst h; rfl
  case trapUnknown v => subst h; exact hwf

/-- A handler keeps the invariant: every write keeps memory canonical, a well-formed instruction's status is legal. -/
theorem exec_keeps_inv {i : Instr} {s t : State} (h : exec i s = .next t) (hwf : i.wellFormed = true) (hinv : s.Inv) :
    t.Inv := by
  obtain ⟨hmem, hlegal⟩ := hinv
  obtain ⟨u, io, change⟩ := exec_next_cases h
  refine ⟨change.mem_wf (io.wf hmem), ?_⟩
  rw [exec_run h]
  cases hend : endStatus i with
  | none => exact hlegal
  | some status => exact legal_of_endStatus hwf hend

/-- Settles O48: the fetch's read keeps the invariant, and what it fetches decodes to a well-formed instruction. -/
theorem stepKeepsTheInvariant : Obligations.StepKeepsTheInvariant := by
  rintro s t ⟨hmem, hlegal⟩ h
  obtain ⟨-, hexec⟩ := running_and_exec_of_step_next h
  have hfetch := s.touch_onlyIo s.pc
  exact exec_keeps_inv hexec (wellFormed_decode _) ⟨hfetch.wf hmem, (congrArg RunState.legal hfetch.run).trans hlegal⟩

/-! ## Completion -/

/-- A blocking read is answered if a character is there or the input is complete (10_state.md R35). -/
theorem Keyboard.getc_isSome {k : Keyboard} (h : k.input ≠ [] ∨ k.ended = true) : ∃ c k', k.getc = some (c, k') := by
  cases hinput : k.input with
  | nil => exact ⟨_, _, Keyboard.getc_ended hinput (h.resolve_left (absurd hinput))⟩
  | cons c rest => exact ⟨_, _, Keyboard.getc_cons hinput⟩

/-- Settles O47: only the blocking reads and the string loops could fail to complete. -/
theorem everyInstructionCompletes : Obligations.EveryInstructionCompletes := by
  intro i s hinput
  cases i with
  | trapGetc =>
    obtain ⟨c, k, hk⟩ := Keyboard.getc_isSome (hinput (.inl rfl))
    exact ⟨_, exec_trapGetc hk⟩
  | trapIn =>
    obtain ⟨c, k, hk⟩ := Keyboard.getc_isSome (hinput (.inr rfl))
    exact ⟨_, exec_trapIn hk⟩
  | trapPuts =>
    obtain ⟨t, ht⟩ := s.printString_isSome putsBytes
    exact ⟨t, exec_trapPuts_iff.mpr (printString_eq_some_iff.mp ht)⟩
  | trapPutsp =>
    obtain ⟨t, ht⟩ := s.printString_isSome putspBytes
    exact ⟨t, exec_trapPutsp_iff.mpr (printString_eq_some_iff.mp ht)⟩
  | br | addReg | addImm | ld | st | jsr | jsrr | andReg | andImm | ldr | str | reserved8 | notReg | ldi | sti | jmp
  | reserved13 | lea | trapOut | trapHalt | trapUnknown => exact ⟨_, rfl⟩

end Sys2Proof.Machine
end

section
/-! Two rules about the fetched word, the reset state, and the loader's failures (20_memory.md section 6;
30_encoding.md; 70_reset_and_hazards.md). -/

namespace Sys2Proof.Machine

/-! ## The fetched word -/

/-- The opcode and condition bits of a word below 0x0200 are clear: it is a BR that names no condition. -/
theorem decode_below_200 {w : Word} (h : w.toNat < 0x0200) :
    decode w = .br false false false (w.extractLsb' 0 9) := by
  have high_clear {i : Nat} (hi : 9 ≤ i) : w.getLsbD i = false :=
    Nat.testBit_lt_two_pow (h.trans_le (Nat.pow_le_pow_right Nat.two_pos hi))
  have hop : w.extractLsb' 12 4 = Config.opcodeBits .br := by
    apply BitVec.eq_of_getLsbD_eq
    intro i _
    rw [BitVec.getLsbD_extractLsb', high_clear (by omega), Bool.and_false]
    exact BitVec.getLsbD_zero.symm
  exact decode_br hop (high_clear (by decide)) (high_clear (by decide)) (high_clear (by decide)) rfl

/-- A BR that names no condition is never taken (43_control.md R150). -/
theorem branchTaken_none (c : Cond) : branchTaken false false false c = false := by cases c <;> rfl

/-- Settles O40. -/
theorem wordsBelow200DoNothing : Obligations.WordsBelow200DoNothing := by
  intro s hrun hlow
  rw [step_of_running hrun, decode_below_200 hlow, exec_br, branchTaken_none, if_neg Bool.false_ne_true]

/-- Settles O41: off the status address the fetch reads the cell the store wrote. -/
theorem fetchSeesTheLatestStore : Obligations.FetchSeesTheLatestStore := by
  intro s v hrun hpc
  have stored := s.memWrite_stored s.pc v
  rw [step_of_running_plain (stored.run.trans hrun) (stored.pc ▸ hpc), stored.pc, stored.value]

/-- Settles O38. -/
theorem endedRunHasNoStep : Obligations.EndedRunHasNoStep :=
  fun _ _ => step_of_ended

/-! ## Reset and the loader's failures -/

/-- Settles O58. -/
theorem resetValues : Obligations.ResetValues :=
  ⟨fun r => by cases r <;> rfl, rfl, rfl, fun _ => rfl, rfl, rfl⟩

/-- Settles O49: reset lists no cell, and a running machine has no status. -/
theorem resetMeetsTheInvariant : Obligations.ResetMeetsTheInvariant :=
  ⟨rfl, rfl⟩

/-- A stream of fewer than two bytes holds no origin (R250). -/
theorem load_short {image : List Byte} (h : image.length < 2) (s : State) : load image s = .error .noOrigin := by
  match image, h with
  | [], _ => rfl
  | [_], _ => rfl

/-- Settles O57. -/
theorem loaderCapacityAndFailures : Obligations.LoaderCapacityAndFailures :=
  ⟨fun _ _ => rfl, fun _ s h => load_short h s, rfl, LoadFailure.exitStatus_ne_zero, fun _ => rfl⟩

end Sys2Proof.Machine
end
